-- ==== Sys2Proof/Word.lean ====
section
/-!
DEFINITION. The data types of 00_scope.md R10: bits, bit strings, symbols, symbol strings, the frame record, the draw
record, and a request as the host presents it. Bits are `Bool` (1 is `true`), symbols are 8-bit words, lengths and
positions are `Nat` (R14: every integer is an unbounded natural number).
-/

namespace Sys2Proof

/-- 00_scope.md R10 `Bit`: 0 is `false`, 1 is `true`. -/
abbrev Bit := Bool

/-- 00_scope.md R10 `BitString`; the head of the list is element 0, the leftmost (R11). -/
abbrev BitString := List Bit

/-- 00_scope.md R10 `Sym`: an 8-bit symbol. -/
abbrev Sym := BitVec 8

/-- 00_scope.md R10 `SymString`: text. -/
abbrev SymString := List Sym

/-- 43_frame.md R120: the five fields of a frame, in the rule's order. The lengths the rule gives the fields are the
check `Machine.frameTyped`. -/
structure FrameFields where
  flag : BitString
  dest : BitString
  src  : BitString
  data : BitString
  fcs  : BitString
deriving DecidableEq, Repr

/-- 44_channel.md R146: the random choices of one CORRUPT operation. The ranges the rule gives them are the check
`Machine.drawAdmissible`. -/
structure Draw where
  e1 : Bit
  k1 : Nat
  e2 : Bit
  ka : Nat
  kb : Nat
deriving DecidableEq, Repr

/-- 30_encoding.md R55, R57: a request is the 4-bit operation-select code and the operands, each presented as its
length and its elements in index order (log 2). -/
structure Request where
  op    : BitVec 4
  items : List Nat
deriving DecidableEq, Repr

end Sys2Proof
end

