-- ==== Sys2Proof/Config.lean ====
section
/-!
DEFINITION. The implementation parameters of 00_scope.md R7, which are the configuration registers of 10_state.md R21
and the capacity NMAX of 20_memory.md R41.
-/

namespace Sys2Proof

/-- A probability as the configuration registers hold it (00_scope.md R7, 10_state.md R21: a real in [0, 1]). A rational is
held exactly; any other real is held under a number that names it, since State is plain data (log 8). -/
inductive Probability where
  | rational (q : Rat)
  | named (n : Nat)
deriving DecidableEq, Repr

/-- Which reals of [0, 1] the names stand for: what the host means by them when it configures the instance
(45_session_host.md R167). An argument of whatever reads a probability, never a field of State; every statement holds
for every such reading (log 8). -/
abbrev RealNames := Nat → unitInterval

/-- The real number a probability register holds. -/
noncomputable def Probability.value (names : RealNames) : Probability → ℝ
  | .rational q => (q : ℝ)
  | .named n => (names n : ℝ)

/-- The legal values of 10_state.md R21; a named real lies in [0, 1] by its type. -/
def Probability.legal : Probability → Bool
  | .rational q => decide (0 ≤ q ∧ q ≤ 1)
  | .named _ => true

/-- 10_state.md R21 and R22: the configuration, fixed before the first request. -/
structure Config where
  /-- `CFG.GID`, 8 bits unsigned. -/
  gid  : BitVec 8
  /-- `CFG.L`, the length of a frame's data field; legal when at least 1. -/
  l    : Nat
  /-- `CFG.P1`; read by no operation, only by the law of the draw (44_channel.md R150). -/
  p1   : Probability
  /-- `CFG.P2`; as `CFG.P1`. -/
  p2   : Probability
  /-- `NMAX`; `none` is unbounded (20_memory.md R41). -/
  nmax : Option Nat
deriving DecidableEq, Repr

/-- An instance of the group id and data length the host chose, with the default probabilities 0.6 and 0.25 of
10_state.md R35 and unbounded buffers (00_scope.md R7). -/
def Config.withDefaults (gid : BitVec 8) (l : Nat) : Config :=
  { gid := gid, l := l, p1 := .rational (mkRat 3 5), p2 := .rational (mkRat 1 4), nmax := none }

/-- DESIGN CHOICE (log 7): the configuration of the spec's own examples, GID = 21 and L = 16 (43_frame.md, 95_test_vectors.md);
the spec gives neither a value. -/
def Config.ofExamples : Config := Config.withDefaults 21 16

end Sys2Proof
end

