-- ==== Sys2Proof/Syntax.lean ====
section
/-!
DEFINITION. The nine operations of 30_encoding.md R56 with the operands of 10_state.md R24, one constructor per row of
spec/opcode_table.json.
-/

namespace Sys2Proof

/-- An operation request with its operand values (10_state.md R24). -/
inductive Instr where
  | txt2bits (text : SymString)                    -- 0x0, 40_bitvector.md R76
  | henc     (data : BitString)                    -- 0x1, 41_hamming.md R90
  | hdec     (cwtext : SymString)                  -- 0x2, 41_hamming.md R92
  | stuff    (bits : BitString)                    -- 0x3, 42_bitstuffer.md R106
  | destuff  (stuffed : BitString)                 -- 0x4, 42_bitstuffer.md R109
  | build    (chan : SymString) (payload : BitString)  -- 0x5, 43_frame.md R125
  | render   (frame : FrameFields)                 -- 0x6, 43_frame.md R129
  | parse    (text : SymString)                    -- 0x7, 43_frame.md R133
  | corrupt  (bits : BitString) (draw : Draw)      -- 0x8, 44_channel.md R147
deriving DecidableEq, Repr

end Sys2Proof
end

