-- ==== Sys2Proof/Machine/Operands.lean ====
section
/-!
DEFINITION. The operators of 00_scope.md R12, the character codes of R13, the conversions of 40_bitvector.md R79 and
R82, the derived lengths of 00_scope.md R9, and the types of operands (30_encoding.md R59) as checks.
-/

namespace Sys2Proof.Machine

/-- `bin_w(v)` of 00_scope.md R12: element `j` is `(v div 2^(w-1-j)) mod 2`, most significant first (20_memory.md R43). -/
def binW (w v : Nat) : BitString :=
  (List.range w).map fun j => decide (v / 2 ^ (w - 1 - j) % 2 = 1)

/-- `num(b)` of 00_scope.md R12. -/
def num (b : BitString) : Nat := b.foldl (fun n x => 2 * n + x.toNat) 0

/-- `0^k` of 00_scope.md R12. -/
def zeros (k : Nat) : BitString := List.replicate k false

/-- `flip(s, i)` of 00_scope.md R12. -/
def flipAt (s : BitString) (i : Nat) : BitString := s.set i (!(s.getD i false))

/-- `ispow2(k)` of 00_scope.md R12: `k ≥ 1` and `k AND (k-1) = 0`. -/
def isPow2 (k : Nat) : Bool := decide (1 ≤ k) && decide (k &&& (k - 1) = 0)

/-- `bitlen(n)` of 00_scope.md R12: 0 for 0, otherwise the `t` with `2^(t-1) ≤ n < 2^t`. -/
def bitlen (n : Nat) : Nat := if n = 0 then 0 else Nat.log2 n + 1

/-- `r(m)` of 41_hamming.md R85: the least `r` with `2^r ≥ m + r + 1`. The search stops at `m + 1`, which satisfies it. -/
def parityCount (m : Nat) : Nat :=
  ((List.range (m + 2)).find? fun r => decide (m + r + 1 ≤ 2 ^ r)).getD (m + 1)

/-- `NL = L + r(L)` of 00_scope.md R9. -/
def fcsLength (cfg : Config) : Nat := cfg.l + parityCount cfg.l

/-- `chr(b)` of 00_scope.md R12: 0x30 for 0, 0x31 for 1. -/
def chr (b : Bit) : Sym := if b then 0x31 else 0x30

/-- `txt(b)` of 00_scope.md R12. -/
def txt (b : BitString) : SymString := b.map chr

/-- The bit of a digit symbol, `none` for every other symbol. -/
def bitOf (c : Sym) : Option Bit :=
  if c = 0x30 then some false else if c = 0x31 then some true else none

/-- `bits_of(t)` of 40_bitvector.md R82: defined exactly when every symbol is 0x30 or 0x31. -/
def bitsOf : SymString → Option BitString
  | [] => some []
  | c :: t =>
    match bitOf c, bitsOf t with
    | some b, some r => some (b :: r)
    | _, _ => none

/-- `pad_L(p)` of 40_bitvector.md R79, for `len(p) ≤ L`. -/
def padTo (l : Nat) (p : BitString) : BitString := p ++ zeros (l - p.length)

/-- Line feed, 0x0A (00_scope.md R13). -/
def symLF : Sym := 0x0A
/-- `[`, 0x5B (00_scope.md R13). -/
def symOpen : Sym := 0x5B
/-- `]`, 0x5D (00_scope.md R13). -/
def symClose : Sym := 0x5D

/-- `Flag: ` (30_encoding.md R63, R66: 6 symbols). -/
def labelFlag : SymString := [0x46, 0x6C, 0x61, 0x67, 0x3A, 0x20]
/-- `, Dest Addr: ` (13 symbols). -/
def labelDest : SymString :=
  [0x2C, 0x20, 0x44, 0x65, 0x73, 0x74, 0x20, 0x41, 0x64, 0x64, 0x72, 0x3A, 0x20]
/-- `, Source Addr: ` (15 symbols). -/
def labelSrc : SymString :=
  [0x2C, 0x20, 0x53, 0x6F, 0x75, 0x72, 0x63, 0x65, 0x20, 0x41, 0x64, 0x64, 0x72, 0x3A, 0x20]
/-- `, Data: ` (8 symbols). -/
def labelData : SymString := [0x2C, 0x20, 0x44, 0x61, 0x74, 0x61, 0x3A, 0x20]
/-- `, FCS: ` (7 symbols). -/
def labelFcs : SymString := [0x2C, 0x20, 0x46, 0x43, 0x53, 0x3A, 0x20]

/-- The field lengths of 43_frame.md R120 and 30_encoding.md R59. -/
def frameTyped (cfg : Config) (f : FrameFields) : Bool :=
  decide (f.flag.length = 8) && decide (f.dest.length = 4) && decide (f.src.length = 4) &&
  decide (f.data.length = cfg.l) && decide (f.fcs.length = fcsLength cfg)

/-- A draw admissible for length `n` (44_channel.md R146). -/
def drawAdmissible (n : Nat) (d : Draw) : Bool :=
  (!(d.e1 && decide (1 ≤ n)) || decide (d.k1 < n)) &&
  (!(d.e2 && decide (2 ≤ n)) || (decide (d.ka < n) && decide (d.kb < n) && decide (d.ka ≠ d.kb)))

/-- The legal values of 10_state.md R21: `L ≥ 1`, `P1` and `P2` in [0, 1]. Every 8-bit `GID` is legal. -/
def configLegal (cfg : Config) : Bool :=
  decide (1 ≤ cfg.l) && cfg.p1.legal && cfg.p2.legal

/-- Every bit string or symbol string of these lengths fits the buffers (20_memory.md R41). -/
def lengthsFit (cfg : Config) (lens : List Nat) : Bool :=
  match cfg.nmax with
  | none => true
  | some m => lens.all fun n => decide (n ≤ m)

/-- The lengths of a frame's five bit strings. -/
def frameLengths (f : FrameFields) : List Nat :=
  [f.flag.length, f.dest.length, f.src.length, f.data.length, f.fcs.length]

/-- The lengths of the bit strings and symbol strings among an operation's operands (20_memory.md R41). -/
def operandLengths : Instr → List Nat
  | .txt2bits text => [text.length]
  | .henc data => [data.length]
  | .hdec cwtext => [cwtext.length]
  | .stuff bits => [bits.length]
  | .destuff stuffed => [stuffed.length]
  | .build chan payload => [chan.length, payload.length]
  | .render frame => frameLengths frame
  | .parse text => [text.length]
  | .corrupt bits _ => [bits.length]

end Sys2Proof.Machine
end

