-- ==== Sys2Proof/WellFormed.lean ====
section
/-!
DEFINITION. Well-formed operation requests: the operand types of 30_encoding.md R59 that the Lean types do not already
carry, which are the field lengths of a frame (43_frame.md R120) and the ranges of a draw (44_channel.md R146).
-/

namespace Sys2Proof

/-- Every operand is a value of its type under the configuration (30_encoding.md R59). -/
def Instr.wellFormed (cfg : Config) : Instr → Bool
  | .txt2bits _ => true
  | .henc _ => true
  | .hdec _ => true
  | .stuff _ => true
  | .destuff _ => true
  | .build _ _ => true
  | .render frame => Machine.frameTyped cfg frame
  | .parse _ => true
  | .corrupt bits draw => Machine.drawAdmissible bits.length draw

end Sys2Proof
end

