-- ==== Sys2Proof/Decode.lean ====
section
/-!
DEFINITION. The decoder of a presented request (30_encoding.md R55 to R60, opcode_table.json), total on every request
and rejecting by name, and after it the encoder written from the same tables. A request is one 4-bit `op` and the
presented operands: a bit string or symbol string as its length and its elements, a frame as its five fields, whose
lengths its type fixes (log 3), a draw as e1, k1, e2, ka, kb.
-/

namespace Sys2Proof

/-- Why a request is not one of the nine operations. -/
inductive DecodeError where
  /-- `op` is 0x9 to 0xF (30_encoding.md R58). -/
  | reservedOp
  /-- The presented operands are no values of the operation's operand types (30_encoding.md R59). -/
  | illTyped
deriving DecidableEq, Repr

/-- A presented bit: the number 0 or 1. -/
def readBit : Nat → Option Bit
  | 0 => some false
  | 1 => some true
  | _ => none

/-- A presented symbol: a number 0 to 255 (00_scope.md R10). -/
def readSym (v : Nat) : Option Sym := if v < 256 then some (BitVec.ofNat 8 v) else none

/-- Exactly `n` elements, each read by `f`, and what follows them. -/
def readMany {α : Type} (f : Nat → Option α) : Nat → List Nat → Option (List α × List Nat)
  | 0, rest => some ([], rest)
  | _ + 1, [] => none
  | n + 1, v :: rest =>
    match f v, readMany f n rest with
    | some a, some (as, rest') => some (a :: as, rest')
    | _, _ => none

/-- A string: its length, then its elements in index order (30_encoding.md R57). -/
def readString {α : Type} (f : Nat → Option α) : List Nat → Option (List α × List Nat)
  | [] => none
  | n :: rest => readMany f n rest

/-- A frame: its five fields in order, of the lengths 43_frame.md R120 gives them. -/
def readFrame (cfg : Config) (items : List Nat) : Option (FrameFields × List Nat) :=
  match readMany readBit 8 items with
  | none => none
  | some (flag, i1) =>
    match readMany readBit 4 i1 with
    | none => none
    | some (dest, i2) =>
      match readMany readBit 4 i2 with
      | none => none
      | some (src, i3) =>
        match readMany readBit cfg.l i3 with
        | none => none
        | some (data, i4) =>
          match readMany readBit (Machine.fcsLength cfg) i4 with
          | none => none
          | some (fcs, i5) => some ({ flag := flag, dest := dest, src := src, data := data, fcs := fcs }, i5)

/-- A draw: its five fields in the order e1, k1, e2, ka, kb (30_encoding.md R57). -/
def readDraw : List Nat → Option (Draw × List Nat)
  | e1 :: k1 :: e2 :: ka :: kb :: rest =>
    match readBit e1, readBit e2 with
    | some b1, some b2 => some ({ e1 := b1, k1 := k1, e2 := b2, ka := ka, kb := kb }, rest)
    | _, _ => none
  | _ => none

/-- The operand was read and no presented number is left over. -/
def whole {α : Type} : Option (α × List Nat) → Option α
  | some (a, []) => some a
  | _ => none

/-- Format S: one symbol string. -/
def readS (items : List Nat) : Option SymString := whole (readString readSym items)

/-- Format B: one bit string. -/
def readB (items : List Nat) : Option BitString := whole (readString readBit items)

/-- Format SB: one symbol string, then one bit string. -/
def readSB (items : List Nat) : Option (SymString × BitString) :=
  match readString readSym items with
  | none => none
  | some (s, rest) => (readB rest).map fun b => (s, b)

/-- Format F: one frame. -/
def readF (cfg : Config) (items : List Nat) : Option FrameFields := whole (readFrame cfg items)

/-- Format BD: one bit string, then one draw. -/
def readBD (items : List Nat) : Option (BitString × Draw) :=
  match readString readBit items with
  | none => none
  | some (b, rest) => (whole (readDraw rest)).map fun d => (b, d)

/-- The operands were read, or the request is ill-typed. -/
def orIllTyped (o : Option Instr) : Except DecodeError Instr :=
  match o with
  | some i => .ok i
  | none => .error .illTyped

/-- The decoder: nine codes select operations, seven are reserved (30_encoding.md R56, R58), `op` is looked at first
(60_exceptions.md R173, R177). -/
def decode (cfg : Config) (r : Request) : Except DecodeError Instr :=
  match r.op.toNat with
  | 0 => orIllTyped ((readS r.items).map .txt2bits)
  | 1 => orIllTyped ((readB r.items).map .henc)
  | 2 => orIllTyped ((readS r.items).map .hdec)
  | 3 => orIllTyped ((readB r.items).map .stuff)
  | 4 => orIllTyped ((readB r.items).map .destuff)
  | 5 => orIllTyped ((readSB r.items).map fun p => .build p.1 p.2)
  | 6 => orIllTyped ((readF cfg r.items).map .render)
  | 7 => orIllTyped ((readS r.items).map .parse)
  | 8 => orIllTyped ((readBD r.items).map fun p => .corrupt p.1 p.2)
  | _ => .error .reservedOp

/-- The operation-select code of an operation (30_encoding.md R56). -/
def opCode : Instr → BitVec 4
  | .txt2bits _ => 0b0000
  | .henc _ => 0b0001
  | .hdec _ => 0b0010
  | .stuff _ => 0b0011
  | .destuff _ => 0b0100
  | .build _ _ => 0b0101
  | .render _ => 0b0110
  | .parse _ => 0b0111
  | .corrupt _ _ => 0b1000

/-- A bit string's elements as numbers. -/
def writeBits (b : BitString) : List Nat := b.map Bool.toNat

/-- A symbol string's elements as numbers. -/
def writeSyms (s : SymString) : List Nat := s.map BitVec.toNat

/-- The presented operands of an operation (30_encoding.md R57). -/
def operandItems : Instr → List Nat
  | .txt2bits text => text.length :: writeSyms text
  | .henc data => data.length :: writeBits data
  | .hdec cwtext => cwtext.length :: writeSyms cwtext
  | .stuff bits => bits.length :: writeBits bits
  | .destuff stuffed => stuffed.length :: writeBits stuffed
  | .build chan payload => (chan.length :: writeSyms chan) ++ (payload.length :: writeBits payload)
  | .render f => writeBits f.flag ++ writeBits f.dest ++ writeBits f.src ++ writeBits f.data ++ writeBits f.fcs
  | .parse text => text.length :: writeSyms text
  | .corrupt bits d => (bits.length :: writeBits bits) ++ [d.e1.toNat, d.k1, d.e2.toNat, d.ka, d.kb]

/-- The encoder: the request the host presents for an operation. -/
def encode (i : Instr) : Request := { op := opCode i, items := operandItems i }

/-- How many numbers present an operation's operands when all of them are zero: empty strings, the all-zero frame, the
draw with no event. -/
def zeroOperandCount (cfg : Config) (op : BitVec 4) : Nat :=
  match op.toNat with
  | 5 => 2
  | 6 => 16 + cfg.l + Machine.fcsLength cfg
  | 8 => 6
  | _ => 1

/-- The request of a table word (log 16): bits 3:0 of `w` are `op`, the operand numbers are zeros; a set bit above them
within the row is an operand number no operation has, so the decoder refuses it. -/
def requestOfTableWord (cfg : Config) (nbits w : Nat) : Request :=
  let v := w % 2 ^ nbits
  let op := BitVec.ofNat 4 v
  let surplus := v / 16
  { op := op,
    items := List.replicate (zeroOperandCount cfg op) 0 ++ (if surplus = 0 then [] else [surplus]) }

/-- What the decoder reads from a table word, under the configuration `State.reset` holds. -/
def decodeTableWord (nbits w : Nat) : Option Instr :=
  match decode Config.ofExamples (requestOfTableWord Config.ofExamples nbits w) with
  | .ok i => some i
  | .error _ => none

end Sys2Proof
end

