-- ==== Sys2Proof/Machine/State.lean ====
section
/-!
DEFINITION. The state of one instance (10_state.md R20, R21) with its two ports (R24): the requests presented and not
yet taken, and the response of the operation the last step performed. Also the fault causes (60_exceptions.md R171),
results (10_state.md R24), responses and status codes (R26), and the reset state (R35).
-/

namespace Sys2Proof.Machine

/-- The causes of a FormatError (60_exceptions.md R171). -/
inductive Cause where
  | emptyCodeword
  | nonbinaryCodeword
  | addrSuffix
  | payloadTooLong
  | wireText
deriving DecidableEq, Repr

/-- The cause codes of 60_exceptions.md R171. -/
def Cause.code : Cause → BitVec 4
  | .emptyCodeword => 1
  | .nonbinaryCodeword => 2
  | .addrSuffix => 3
  | .payloadTooLong => 4
  | .wireText => 5

/-- The results of a normal completion, one shape per operation (10_state.md R24). -/
inductive Results where
  | txt2bits (bits : BitString)
  | henc     (cw : BitString)
  | hdec     (data : BitString) (errpos : Nat)
  | stuff    (stuffed : BitString) (last : Option Nat)
  | destuff  (bits : BitString)
  | build    (frame : FrameFields)
  | render   (text : SymString)
  | parse    (frame : FrameFields)
  | corrupt  (bits : BitString)
deriving DecidableEq, Repr

/-- The response to one request (10_state.md R26): results, a FormatError with its cause, or the refusal of a reserved
code, which is distinct from a FormatError (30_encoding.md R58). Only a normal completion carries results
(00_scope.md R15). -/
inductive Response where
  | ok (r : Results)
  | formatError (c : Cause)
  | illegalOp
deriving DecidableEq, Repr

/-- The 4-bit status code of a response (10_state.md R26); codes 6 to 14 are never produced. -/
def Response.status : Response → BitVec 4
  | .ok _ => 0
  | .formatError c => c.code
  | .illegalOp => 15

/-- One instance of the block. -/
structure State where
  /-- The configuration registers (10_state.md R21), the only state that persists (R20). -/
  cfg      : Config
  /-- The model's own field: requests presented and not yet taken, oldest first (20_memory.md R49, log 5). -/
  pending  : List Request
  /-- The model's own field: the response of the operation the last step performed (10_state.md R24, R26, log 4). -/
  response : Option Response
deriving DecidableEq, Repr

/-- No machine stop exists: a FormatError is a response, after which the block accepts the next request
(60_exceptions.md R175, R178, R179; log 11). No one raises a value of this type. Safe. -/
inductive Fault where
deriving DecidableEq, Repr

/-- Requests outside the block's defined behaviour. -/
inductive Refusal where
  /-- An instruction without a meaning; no arm of exec raises it. Safe. -/
  | notModelled (mnemonic : String)
  /-- Raised by every operation while the configuration is out of range (93_implementation_defined.md U13,
  70_reset_and_hazards.md R197). Safe. -/
  | illegalConfiguration
  /-- Raised by the step when the presented operands are no values of the operand types (30_encoding.md R59). Safe. -/
  | illTypedRequest
  /-- Raised by RENDER for a frame whose field lengths are not those of its type (43_frame.md R120). Safe. -/
  | illTypedFrame
  /-- Raised by CORRUPT for a draw not admissible for the length (44_channel.md R146, U6). Safe. -/
  | inadmissibleDraw
  /-- Raised by every operation when an operand or a result is longer than NMAX (20_memory.md R41, U12). Safe. -/
  | capacityExceeded
deriving DecidableEq, Repr

/-- The state right after reset of an instance configured with `cfg`: idle, nothing presented, no response pending
(10_state.md R35, 70_reset_and_hazards.md R195). -/
def State.resetWith (cfg : Config) : State := { cfg := cfg, pending := [], response := none }

/-- The state right after reset of the instance with the configuration of the spec's examples (log 7). -/
def State.reset : State := State.resetWith Config.ofExamples

end Sys2Proof.Machine
end

