-- ==== Sys2Proof/Machine/Ops.lean ====
section
/-!
DEFINITION. The named operations over State: the host's (present, reset), the step's (take a request, idle), and the
one shared shape of every operation, with taking a FormatError and refusing a reserved code beside it.
-/

namespace Sys2Proof.Machine

/-- The host presents one more request (20_memory.md R49). -/
def State.present (s : State) (r : Request) : State := { s with pending := s.pending ++ [r] }

/-- The reset event of 70_reset_and_hazards.md R195: no operation in progress, no response pending, the configuration
as configured; requests not yet taken are not performed (log 17). -/
def State.resetEvent (s : State) : State := State.resetWith s.cfg

/-- The block takes a request, leaving the later ones; the earlier response is delivered (10_state.md R26). -/
def State.accept (s : State) (rest : List Request) : State := { s with pending := rest, response := none }

/-- With no request presented the block idles (60_exceptions.md R186, log 6). -/
def State.idle (s : State) : State := { s with response := none }

/-- The response of the operation in progress. -/
def State.respond (s : State) (r : Response) : State := { s with response := some r }

/-- Taking a FormatError: the response carries the cause and no results, nothing else changes (60_exceptions.md R170,
R172, R178). There is no return from it: the next request is accepted as after a normal response (R179). -/
def State.takeFormatError (s : State) (c : Cause) : State := s.respond (.formatError c)

/-- Refusing a reserved operation code: status 15, no result, nothing else changes (30_encoding.md R58,
60_exceptions.md R173). -/
def State.takeIllegalOp (s : State) : State := s.respond .illegalOp

/-- The lengths of the bit strings and symbol strings among the results (20_memory.md R41). -/
def resultLengths : Results → List Nat
  | .txt2bits bits => [bits.length]
  | .henc cw => [cw.length]
  | .hdec data _ => [data.length]
  | .stuff stuffed _ => [stuffed.length]
  | .destuff bits => [bits.length]
  | .build frame => frameLengths frame
  | .render text => [text.length]
  | .parse frame => frameLengths frame
  | .corrupt bits => [bits.length]

/-- The shape of every operation: configuration within range (R197), operands of their types (R59, `illTyped` names
the refusal when they are not), operands within capacity, then the outcome, whose results must be within capacity
(20_memory.md R41). Either all results or one fault (00_scope.md R15). Order of the refusals: log 22. -/
def perform (illTyped : Option Refusal) (operands : List Nat) (outcome : Except Cause Results) (s : State) :
    Host.Outcome State Fault Refusal :=
  if configLegal s.cfg then
    match illTyped with
    | some r => .refused r
    | none =>
      if lengthsFit s.cfg operands then
        match outcome with
        | .error c => .next (s.takeFormatError c)
        | .ok r =>
          if lengthsFit s.cfg (resultLengths r) then .next (s.respond (.ok r)) else .refused .capacityExceeded
      else .refused .capacityExceeded
  else .refused .illegalConfiguration

/-- A request the decoder rejects: a reserved code gets its response, operands that cannot be presented are refused. -/
def rejectRequest (e : DecodeError) (s : State) : Host.Outcome State Fault Refusal :=
  if configLegal s.cfg then
    match e with
    | .reservedOp => .next s.takeIllegalOp
    | .illTyped => .refused .illTypedRequest
  else .refused .illegalConfiguration

end Sys2Proof.Machine
end

