-- ==== Sys2Proof/Machine/BitVector.lean ====
section
/-!
DEFINITION. The BitVector utilities: TXT2BITS (40_bitvector.md R76).
-/

namespace Sys2Proof.Machine

/-- The bits one symbol contributes: the characters `0` and `1` are literal bits (40_bitvector.md R77), any other
symbol its eight bits, most significant first. -/
def symBits (c : Sym) : BitString :=
  if c = 0x30 then [false] else if c = 0x31 then [true] else binW 8 c.toNat

/-- The scan of 40_bitvector.md R76. -/
def txt2bits (text : SymString) : BitString := text.foldl (fun out c => out ++ symBits c) []

/-- TXT2BITS, 40_bitvector.md R76. -/
def execTxt2bits (text : SymString) (s : State) : Host.Outcome State Fault Refusal :=
  perform none (operandLengths (.txt2bits text)) (.ok (.txt2bits (txt2bits text))) s

end Sys2Proof.Machine
end

