-- ==== Sys2Proof/Machine/Channel.lean ====
section
/-!
DEFINITION. The ChannelSimulator: CORRUPT (44_channel.md R147, R148), and beside it the law R150 gives a random source
that makes the draws. No operation reads the law (R151).
-/

namespace Sys2Proof.Machine

/-- The single-flip event of 44_channel.md R147. -/
def singleFlip (d : Draw) (bits : BitString) : BitString :=
  if d.e1 = true ∧ 1 ≤ bits.length then flipAt bits d.k1 else bits

/-- The double-flip event of 44_channel.md R147; flips compose, a coincidence is not re-drawn (R149). -/
def doubleFlip (d : Draw) (bits : BitString) : BitString :=
  if d.e2 = true ∧ 2 ≤ bits.length then flipAt (flipAt bits d.ka) d.kb else bits

/-- CORRUPT's function, 44_channel.md R147. -/
def corrupt (bits : BitString) (d : Draw) : BitString := doubleFlip d (singleFlip d bits)

/-- CORRUPT, 44_channel.md R147; a draw not admissible for the length is refused (R146). -/
def execCorrupt (bits : BitString) (draw : Draw) (s : State) : Host.Outcome State Fault Refusal :=
  perform (if drawAdmissible bits.length draw then none else some .inadmissibleDraw)
    (operandLengths (.corrupt bits draw)) (.ok (.corrupt (corrupt bits draw))) s

/-- The unordered pairs of distinct indices below `n`, written with the smaller first. -/
def indexPairs (n : Nat) : List (Nat × Nat) :=
  (List.range n).flatMap fun b => (List.range b).map fun a => (a, b)

/-- What `k1` may be at length `n`: each of the `n` indices. At length 0 there is none, and the ignored field (R146, R148) is
written 0 (DESIGN CHOICE, log 23). -/
def singleChoices (n : Nat) : List Nat := if n = 0 then [0] else List.range n

/-- What the unordered pair `{ka, kb}` may be at length `n`: each of the `n(n-1)/2` pairs. Below length 2 there is none, and
the ignored fields (R146, R148) are written 0 (DESIGN CHOICE, log 23). -/
def pairChoices (n : Nat) : List (Nat × Nat) := if n < 2 then [(0, 0)] else indexPairs n

/-- A pair in each order in which a source may present it as `ka` and `kb`. -/
def bothOrders (p : Nat × Nat) : List (Nat × Nat) := if p.1 = p.2 then [p] else [p, (p.2, p.1)]

/-- The draws of 44_channel.md R150 at length `n`: every position choice with every event choice, since the positions are
chosen independently of the events, and every pair in both orders. -/
def drawsOf (n : Nat) : List Draw :=
  [false, true].flatMap fun e1 => (singleChoices n).flatMap fun k1 =>
    [false, true].flatMap fun e2 => ((pairChoices n).flatMap bothOrders).map fun p =>
      { e1 := e1, k1 := k1, e2 := e2, ka := p.1, kb := p.2 }

/-- The probability of an event that happens with probability `p`, or of its not happening. -/
noncomputable def chance (p : ℝ) (happens : Bit) : ℝ := if happens then p else 1 - p

/-- For each draw written with `ka < kb`, the probability that a source presents its pair the other way round. The spec
gives the law of the unordered pair alone, so this is any function: an argument of the law, fixed at no value (log 23). -/
abbrev PairOrder := Draw → unitInterval

/-- The probability that a source which has chosen the draw's pair presents it in the draw's order. -/
noncomputable def orderProbability (order : PairOrder) (d : Draw) : ℝ :=
  if d.ka = d.kb then 1
  else if d.ka < d.kb then 1 - (order d : ℝ)
  else (order { d with ka := d.kb, kb := d.ka } : ℝ)

/-- The probability 44_channel.md R150 gives a draw at length `n`: the events with probabilities P1 and P2, `k1` uniform
over its choices, the unordered pair uniform over its choices, all independent. -/
noncomputable def drawProbability (names : RealNames) (order : PairOrder) (cfg : Config) (n : Nat) (d : Draw) : ℝ :=
  chance (cfg.p1.value names) d.e1 * (1 / (singleChoices n).length) *
    chance (cfg.p2.value names) d.e2 * (1 / (pairChoices n).length) * orderProbability order d

end Sys2Proof.Machine
end

