-- ==== Sys2Proof/Machine/BitStuffer.lean ====
section
/-!
DEFINITION. The BitStuffer: STUFF (42_bitstuffer.md R106) and DESTUFF (R109), each a scan over its working registers
(10_state.md R27), which start anew at every operation (R28).
-/

namespace Sys2Proof.Machine

/-- STUFF's working registers (10_state.md R27), with their initial values. -/
structure StuffRegs where
  out  : BitString := []
  cnt  : Nat := 0
  last : Option Nat := none
deriving DecidableEq, Repr

/-- One input bit of STUFF (42_bitstuffer.md R106): every bit is copied; a fifth 1 in a row is followed at once by the
marker 0, whose index in the output is recorded (R107). -/
def stuffBit (w : StuffRegs) (b : Bit) : StuffRegs :=
  let out := w.out ++ [b]
  if b then
    if w.cnt + 1 = 5 then { out := out ++ [false], cnt := 0, last := some out.length }
    else { out := out, cnt := w.cnt + 1, last := w.last }
  else { out := out, cnt := 0, last := w.last }

/-- The scan of STUFF. -/
def stuffScan (bits : BitString) : StuffRegs := bits.foldl stuffBit {}

/-- DESTUFF's working registers (10_state.md R27), with their initial values. -/
structure DestuffRegs where
  out  : BitString := []
  cnt  : Nat := 0
  skip : Bool := false
deriving DecidableEq, Repr

/-- One input bit of DESTUFF (42_bitstuffer.md R109): the bit after a fifth 1 is dropped whatever its value. -/
def destuffBit (w : DestuffRegs) (b : Bit) : DestuffRegs :=
  if w.skip then { out := w.out, cnt := w.cnt, skip := false }
  else
    let out := w.out ++ [b]
    if b then
      if w.cnt + 1 = 5 then { out := out, cnt := 0, skip := true }
      else { out := out, cnt := w.cnt + 1, skip := false }
    else { out := out, cnt := 0, skip := false }

/-- The scan of DESTUFF. -/
def destuff (stuffed : BitString) : BitString := (stuffed.foldl destuffBit {}).out

/-- STUFF, 42_bitstuffer.md R106. -/
def execStuff (bits : BitString) (s : State) : Host.Outcome State Fault Refusal :=
  perform none (operandLengths (.stuff bits)) (.ok (.stuff (stuffScan bits).out (stuffScan bits).last)) s

/-- DESTUFF, 42_bitstuffer.md R109. -/
def execDestuff (stuffed : BitString) (s : State) : Host.Outcome State Fault Refusal :=
  perform none (operandLengths (.destuff stuffed)) (.ok (.destuff (destuff stuffed))) s

end Sys2Proof.Machine
end

