-- ==== Sys2Proof/Machine/Flags.lean ====
section
/-!
DEFINITION. The flag-like values of 10_state.md R29. The block has no flag register; `errpos` is the syndrome value of
41_hamming.md R93, computed here with the parity checks it rests on (R88, R89); `last` of STUFF is kept by the scan of
BitStuffer.lean; `status` is Response.status.
-/

namespace Sys2Proof.Machine

/-- `c⟨k⟩`, the bit at 1-based position `k` (00_scope.md R11). -/
def bitAt (cw : BitString) (k : Nat) : Bit := cw.getD (k - 1) false

/-- The positions 1 to `n`. -/
def positions (n : Nat) : List Nat := List.range' 1 n

/-- `cover(i, n)` of 41_hamming.md R88. -/
def cover (i n : Nat) : List Nat := (positions n).filter fun k => decide (k &&& 2 ^ i ≠ 0)

/-- `XOR{ c⟨k⟩ : k in ks }` of 00_scope.md R12. -/
def xorOver (cw : BitString) (ks : List Nat) : Bit := ks.foldl (fun acc k => acc ^^ bitAt cw k) false

/-- Check `i` disagrees: the XOR over its whole cover is 1 (41_hamming.md R92). -/
def checkFails (cw : BitString) (i : Nat) : Bit := xorOver cw (cover i cw.length)

/-- The syndrome value: the sum of `2^i` over the failing checks, one check per parity position present
(41_hamming.md R92, R93). -/
def syndrome (cw : BitString) : Nat :=
  (List.range (bitlen cw.length)).foldl (fun s i => if checkFails cw i then s + 2 ^ i else s) 0

end Sys2Proof.Machine
end

