-- ==== Sys2Proof/Machine/Hamming.lean ====
section
/-!
DEFINITION. The HammingCodec: HENC (41_hamming.md R90) and HDEC (R91 to R96). Positions are 1-based.
-/

namespace Sys2Proof.Machine

/-- `dpos(j)` of 41_hamming.md R87: the (j+1)-th positive integer that is not a power of two. -/
def dpos (j : Nat) : Nat := ((positions (2 * j + 4)).filter fun k => !isPow2 k).getD j 0

/-- `cw⟨k⟩ <- b`. -/
def setAt (cw : BitString) (k : Nat) (b : Bit) : BitString := cw.set (k - 1) b

/-- The placement loop of 41_hamming.md R90 over the given positions: data bits in order at the positions that are not
powers of two, placeholders 0 at the others. -/
def placeFrom : List Nat → BitString → BitString
  | [], _ => []
  | k :: ks, d =>
    if isPow2 k then false :: placeFrom ks d
    else
      match d with
      | [] => false :: placeFrom ks []
      | b :: d' => b :: placeFrom ks d'

/-- One turn of the parity loop of 41_hamming.md R90: position `2^i` becomes the XOR of the other covered bits
(R89). -/
def fixParity (n : Nat) (cw : BitString) (i : Nat) : BitString :=
  setAt cw (2 ^ i) (xorOver cw ((cover i n).filter fun k => decide (k ≠ 2 ^ i)))

/-- HENC's function, 41_hamming.md R90: `m = len(data)`, `r = r(m)`, `n = m + r`, ascending `i`. -/
def henc (data : BitString) : BitString :=
  let r := parityCount data.length
  let n := data.length + r
  (List.range r).foldl (fixParity n) (placeFrom (positions n) data)

/-- The bits at the data positions, in ascending position order (41_hamming.md R95). -/
def extractData (cw : BitString) : BitString :=
  ((positions cw.length).filter fun k => !isPow2 k).map (bitAt cw)

/-- The correcting flip of 41_hamming.md R94, on the internal copy. -/
def correct (cw : BitString) (s : Nat) : BitString :=
  if s ≠ 0 ∧ s ≤ cw.length then setAt cw s (!(bitAt cw s)) else cw

/-- HDEC's function on a validated codeword, 41_hamming.md R92. -/
def hdecWord (cw : BitString) : Results :=
  .hdec (extractData (correct cw (syndrome cw))) (syndrome cw)

/-- HDEC with the validation of 41_hamming.md R91, emptiness first. -/
def hdec (cwtext : SymString) : Except Cause Results :=
  if cwtext.length = 0 then .error .emptyCodeword
  else
    match bitsOf cwtext with
    | none => .error .nonbinaryCodeword
    | some cw => .ok (hdecWord cw)

/-- HENC, 41_hamming.md R90. -/
def execHenc (data : BitString) (s : State) : Host.Outcome State Fault Refusal :=
  perform none (operandLengths (.henc data)) (.ok (.henc (henc data))) s

/-- HDEC, 41_hamming.md R92. -/
def execHdec (cwtext : SymString) (s : State) : Host.Outcome State Fault Refusal :=
  perform none (operandLengths (.hdec cwtext)) (hdec cwtext) s

end Sys2Proof.Machine
end

