-- ==== Sys2Proof/Machine/Frame.lean ====
section
/-!
DEFINITION. The FrameBuilder: BUILD (43_frame.md R125), RENDER (R129, R130) and PARSE (R131 to R134).
-/

namespace Sys2Proof.Machine

/-- The decimal digit of the last symbol of a channel identifier, `none` when there is no last symbol or it is not
0x30 to 0x39 (43_frame.md R124). -/
def chanDigit (chan : SymString) : Option Nat :=
  match chan.getLast? with
  | none => none
  | some c => if 0x30 ≤ c.toNat ∧ c.toNat ≤ 0x39 then some (c.toNat - 0x30) else none

/-- The frame BUILD returns for a digit and a payload that fits (43_frame.md R122, R125). -/
def builtFrame (cfg : Config) (d : Nat) (payload : BitString) : FrameFields :=
  { flag := binW 8 cfg.gid.toNat,
    dest := zeros 4,
    src  := binW 4 d,
    data := padTo cfg.l payload,
    fcs  := henc (padTo cfg.l payload) }

/-- BUILD's function: the suffix is checked before the payload length (43_frame.md R125, R126). -/
def build (cfg : Config) (chan : SymString) (payload : BitString) : Except Cause Results :=
  match chanDigit chan with
  | none => .error .addrSuffix
  | some d =>
    if payload.length > cfg.l then .error .payloadTooLong
    else .ok (.build (builtFrame cfg d payload))

/-- The Data field as rendered: the stuffed data with the last marker in brackets (43_frame.md R130). -/
def dataField (data : BitString) : SymString :=
  let st := (stuffScan data).out
  match (stuffScan data).last with
  | none => txt st
  | some p => txt (st.take p) ++ [symOpen] ++ txt ((st.drop p).take 1) ++ [symClose] ++ txt (st.drop (p + 1))

/-- RENDER's function, 43_frame.md R129; no line terminator (30_encoding.md R65). -/
def render (f : FrameFields) : SymString :=
  labelFlag ++ txt f.flag ++ labelDest ++ txt f.dest ++ labelSrc ++ txt f.src ++
  labelData ++ dataField f.data ++ labelFcs ++ txt f.fcs

/-- `expect(lit)` of 43_frame.md R132 on the text from the cursor on: what follows `lit`, `none` for the fault. -/
def expect (lit t : SymString) : Option SymString :=
  if t.take lit.length = lit then some (t.drop lit.length) else none

/-- `takebits(w)` of 43_frame.md R132: the bits of the next `w` symbols and what follows. -/
def takeBits (w : Nat) (t : SymString) : Option (BitString × SymString) :=
  if w ≤ t.length then (bitsOf (t.take w)).map fun b => (b, t.drop w) else none

/-- The symbols a Data field may hold: `0`, `1`, `[`, `]` (43_frame.md R133). -/
def isDataSym (c : Sym) : Bool := c == 0x30 || c == 0x31 || c == symOpen || c == symClose

/-- `unbracket(raw)` of 43_frame.md R134. -/
def unbracket (raw : SymString) : Option BitString :=
  let nb := raw.count symOpen
  let ne := raw.count symClose
  let a := raw.idxOf symOpen
  if nb = 0 ∧ ne = 0 then bitsOf raw
  else if nb = 1 ∧ ne = 1 ∧ raw[a + 2]? = some symClose ∧ (raw[a + 1]? = some 0x30 ∨ raw[a + 1]? = some 0x31) then
    bitsOf (raw.take a ++ (raw.drop (a + 1)).take 1 ++ raw.drop (a + 3))
  else none

/-- The operand less at most one trailing line feed (30_encoding.md R65, 43_frame.md R133). -/
def dropOneLF (t : SymString) : SymString := if t.getLast? = some symLF then t.dropLast else t

/-- PARSE's function, 43_frame.md R133; `none` is the one fault FE_WIRE_TEXT (R131). -/
def parseLine (cfg : Config) (text : SymString) : Option FrameFields := do
  let t0 ← expect labelFlag (dropOneLF text)
  let (flag, t1) ← takeBits 8 t0
  let t2 ← expect labelDest t1
  let (dest, t3) ← takeBits 4 t2
  let t4 ← expect labelSrc t3
  let (src, t5) ← takeBits 4 t4
  let t6 ← expect labelData t5
  let ftxt ← expect labelFcs (t6.dropWhile isDataSym)
  let st ← unbracket (t6.takeWhile isDataSym)
  let fcs ← bitsOf ftxt
  if (destuff st).length = cfg.l ∧ fcs.length = fcsLength cfg then
    some { flag := flag, dest := dest, src := src, data := destuff st, fcs := fcs }
  else none

/-- PARSE's outcome. -/
def parse (cfg : Config) (text : SymString) : Except Cause Results :=
  match parseLine cfg text with
  | none => .error .wireText
  | some f => .ok (.parse f)

/-- BUILD, 43_frame.md R125. -/
def execBuild (chan : SymString) (payload : BitString) (s : State) : Host.Outcome State Fault Refusal :=
  perform none (operandLengths (.build chan payload)) (build s.cfg chan payload) s

/-- RENDER, 43_frame.md R129; a frame whose fields have other lengths than its type gives them does not exist
(R120). -/
def execRender (frame : FrameFields) (s : State) : Host.Outcome State Fault Refusal :=
  perform (if frameTyped s.cfg frame then none else some .illTypedFrame) (operandLengths (.render frame))
    (.ok (.render (render frame))) s

/-- PARSE, 43_frame.md R133. -/
def execParse (text : SymString) (s : State) : Host.Outcome State Fault Refusal :=
  perform none (operandLengths (.parse text)) (parse s.cfg text) s

end Sys2Proof.Machine
end

