-- ==== Sys2Proof/Machine/Dispatch.lean ====
section
/-!
DEFINITION. One arm per operation of 30_encoding.md R56.
-/

namespace Sys2Proof.Machine

def exec (i : Instr) (s : State) : Host.Outcome State Fault Refusal :=
  match i with
  | .txt2bits text => Sys2Proof.Machine.execTxt2bits text s
  | .henc data => Sys2Proof.Machine.execHenc data s
  | .hdec cwtext => Sys2Proof.Machine.execHdec cwtext s
  | .stuff bits => Sys2Proof.Machine.execStuff bits s
  | .destuff stuffed => Sys2Proof.Machine.execDestuff stuffed s
  | .build chan payload => Sys2Proof.Machine.execBuild chan payload s
  | .render frame => Sys2Proof.Machine.execRender frame s
  | .parse text => Sys2Proof.Machine.execParse text s
  | .corrupt bits draw => Sys2Proof.Machine.execCorrupt bits draw s

end Sys2Proof.Machine
end

