-- ==== Sys2Proof/Machine/Step.lean ====
section
/-!
DEFINITION. One step: take the oldest presented request, decode it, perform it (20_memory.md R49, 70_reset_and_hazards.md
R211); with no request presented, idle. And the placing of a table word where the step fetches.
-/

namespace Sys2Proof.Machine

/-- One transaction (00_scope.md R6). -/
def step (s : State) : Host.Outcome State Fault Refusal :=
  match s.pending with
  | [] => .next s.idle
  | r :: rest =>
    match decode s.cfg r with
    | .ok i => exec i (s.accept rest)
    | .error e => rejectRequest e (s.accept rest)

/-- The request of a table word, placed first in the queue the step takes its requests from (log 15, log 16). -/
def State.withFetchWord (s : State) (nbits w : Nat) : State :=
  { s with pending := requestOfTableWord s.cfg nbits w :: s.pending }

end Sys2Proof.Machine
end

