-- ==== Sys2Proof/Machine/Session.lean ====
section
/-!
DEFINITION. The host's two paths over the block: the pseudo-operations TXLINE and RXLINE (30_encoding.md R69), and the
host session of 45_session_host.md, which 00_scope.md R5 puts outside the block and which is therefore no part of State
(log 20). What the transport answers and what the source leaves open about the byte counters are arguments.
-/

namespace Sys2Proof.Machine

/-- What the host holds after a path: the block's state and the path's value, `none` when a step ended with a fault
(30_encoding.md R69; the fault is the block's last response). -/
abbrev Reply (α : Type) := Host.Outcome (State × Option α) Fault Refusal

/-- The host requests one operation and goes on with its results; the path ends at the first response that is not OK
(30_encoding.md R69). -/
def ask {α : Type} (i : Instr) (s : State) (go : Results → State → Reply α) : Reply α :=
  match exec i s with
  | .next s' =>
    match s'.response with
    | some (.ok r) => go r s'
    | _ => .next (s', none)
  | .fault f => .fault f
  | .refused r => .refused r

/-- `line := TXLINE(chan, text)` of 30_encoding.md R69. -/
def txline (chan text : SymString) (s : State) : Reply SymString :=
  ask (.txt2bits text) s fun r1 s1 =>
    match r1 with
    | .txt2bits p =>
      ask (.build chan p) s1 fun r2 s2 =>
        match r2 with
        | .build f =>
          ask (.render f) s2 fun r3 s3 =>
            match r3 with
            | .render t => .next (s3, some (t ++ [symLF]))
            | _ => .next (s3, none)
        | _ => .next (s2, none)
    | _ => .next (s1, none)

/-- `d, e := RXLINE(line)` of 30_encoding.md R69. -/
def rxline (line : SymString) (s : State) : Reply (BitString × Nat) :=
  ask (.parse line) s fun r1 s1 =>
    match r1 with
    | .parse f =>
      ask (.hdec (txt f.fcs)) s1 fun r2 s2 =>
        match r2 with
        | .hdec d e => .next (s2, some (d, e))
        | _ => .next (s2, none)
    | _ => .next (s1, none)

/-- The two channel pairs (45_session_host.md R161). -/
inductive Pair where
  | a
  | b
deriving DecidableEq, Repr

/-- The four ByteCounters (45_session_host.md R161), unbounded. -/
structure Counters where
  txA : Nat
  rxA : Nat
  txB : Nat
  rxB : Nat
deriving DecidableEq, Repr

/-- What happens to the counters, each atomic (45_session_host.md R164). -/
inductive CounterEvent where
  | reset
  | wrote (p : Pair) (n : Nat)
  | read (p : Pair) (n : Nat)
deriving DecidableEq, Repr

/-- One event: the global reset of all four (R156 step 1), or an increment (R162). -/
def Counters.apply (c : Counters) : CounterEvent → Counters
  | .reset => { txA := 0, rxA := 0, txB := 0, rxB := 0 }
  | .wrote .a n => { c with txA := c.txA + n }
  | .wrote .b n => { c with txB := c.txB + n }
  | .read .a n => { c with rxA := c.rxA + n }
  | .read .b n => { c with rxB := c.rxB + n }

/-- The TX counter of a pair. -/
def Counters.tx (c : Counters) : Pair → Nat
  | .a => c.txA
  | .b => c.txB

/-- The RX counter of a pair. -/
def Counters.rx (c : Counters) : Pair → Nat
  | .a => c.rxA
  | .b => c.rxB

/-- The host session (45_session_host.md R155): an instance of the block and the byte counters. Their value before the
first transmit is not stated (91_not_in_source.md N11): a session starts with any. -/
structure Session where
  block    : State
  counters : Counters
deriving DecidableEq, Repr

/-- transmitLine (45_session_host.md R156). `written` is the transport's answer to the write: the byte count, or `none`
for a TransportError, which abandons the call (R158). The value is the byte count written, `none` when the call
ended early. -/
def transmitLine (p : Pair) (chan text : SymString) (written : SymString → Option Nat) (ss : Session) :
    Host.Outcome (Session × Option Nat) Fault Refusal :=
  let c0 := ss.counters.apply .reset
  match txline chan text ss.block with
  | .next (s', none) => .next ({ block := s', counters := c0 }, none)
  | .next (s', some line) =>
    match written line with
    | none => .next ({ block := s', counters := c0 }, none)
    | some n => .next ({ block := s', counters := c0.apply (.wrote p n) }, some n)
  | .fault f => .fault f
  | .refused r => .refused r

/-- What the transport's blocking read gives one iteration of receiveLoop (45_session_host.md R157, R159, R165): a line
with the bytes read for it and, when the line turns out malformed, whether they count (both left open,
91_not_in_source.md N11); a TransportError; or the stop signal. -/
inductive ReadEvent where
  | line (text : SymString) (bytesRead : Nat) (countsIfMalformed : Bool)
  | transportError
  | stop
deriving DecidableEq, Repr

/-- The host's test for an empty line (45_session_host.md R157). A line without symbols is empty. Whether a line of a lone
line feed counts as empty is left to the host (91_not_in_source.md N8): it is the argument `loneLFIsEmpty`, which the
model fixes at neither value (DESIGN CHOICE, log 25). -/
def lineIsEmpty (loneLFIsEmpty : Bool) (text : SymString) : Bool :=
  decide (text = []) || (loneLFIsEmpty && decide (text = [symLF]))

/-- One received line: an empty line is ignored, a malformed one skipped, a good one counted and published
(45_session_host.md R157). Under a host whose test does not see a lone line feed as empty, that line is requested of
PARSE and is malformed (30_encoding.md R65, 91_not_in_source.md N8, log 25). -/
def receiveLine (loneLFIsEmpty : Bool) (p : Pair) (text : SymString) (n : Nat) (countsIfMalformed : Bool)
    (ss : Session) : Host.Outcome (Session × Option (SymString × BitString)) Fault Refusal :=
  if lineIsEmpty loneLFIsEmpty text then .next (ss, none)
  else
    match rxline text ss.block with
    | .next (s', some (d, _)) => .next ({ block := s', counters := ss.counters.apply (.read p n) }, some (text, d))
    | .next (s', none) =>
      .next ({ block := s',
               counters := if countsIfMalformed then ss.counters.apply (.read p n) else ss.counters }, none)
    | .fault f => .fault f
    | .refused r => .refused r

/-- receiveLoop (45_session_host.md R157, R158) over what the transport gives: it ends at the stop signal, at a
TransportError, or when nothing more arrives, and not at a bad line; the host's test for an empty line is the same for
all of them (log 25). The value lists what was published. -/
def receiveLoop (loneLFIsEmpty : Bool) (p : Pair) : List ReadEvent → Session →
    Host.Outcome (Session × List (SymString × BitString)) Fault Refusal
  | [], ss => .next (ss, [])
  | .stop :: _, ss => .next (ss, [])
  | .transportError :: _, ss => .next (ss, [])
  | .line text n c :: rest, ss =>
    match receiveLine loneLFIsEmpty p text n c ss with
    | .next (ss', out) =>
      match receiveLoop loneLFIsEmpty p rest ss' with
      | .next (ss'', more) => .next (ss'', out.toList ++ more)
      | .fault f => .fault f
      | .refused r => .refused r
    | .fault f => .fault f
    | .refused r => .refused r

end Sys2Proof.Machine
end

