-- ==== Sys2Proof/Safety.lean ====
section
/-!
DEFINITION. The words claims are stated in: counting readings of the parity checks and of the stuffing markers that do
not follow the scans' own text, the grammar of a wire line (30_encoding.md R63, R64), and the invariant that every
step keeps.
-/

namespace Sys2Proof.Machine

/-- The number of 1s at the positions whose index has bit `i` set (41_hamming.md R88). -/
def coveredOnes (cw : BitString) (i : Nat) : Nat :=
  ((positions cw.length).filter fun k => k.testBit i && bitAt cw k).length

/-- The bitwise XOR of a list of numbers. -/
def xorAll (ps : List Nat) : Nat := ps.foldl (fun acc p => acc ^^^ p) 0

/-- The word with the given 1-based positions flipped, one after another. -/
def flipPositions (cw : BitString) (ps : List Nat) : BitString := ps.foldl (fun w p => flipAt w (p - 1)) cw

/-- In how many places two bit strings of one length differ. -/
def differingBits (a b : BitString) : Nat :=
  ((List.range a.length).filter fun i => a.getD i false != b.getD i false).length

/-- How many 1s in a row end at index `i`. -/
def onesEndingAt (bits : BitString) (i : Nat) : Nat := ((bits.take (i + 1)).reverse.takeWhile id).length

/-- The input indices `a_1 < a_2 < …` of 42_bitstuffer.md R108: each fifth 1 of a run, counted from the run's start. -/
def markerSites (bits : BitString) : List Nat :=
  (List.range bits.length).filter fun i => decide (0 < onesEndingAt bits i ∧ onesEndingAt bits i % 5 = 0)

/-- The lengths of the runs of 1s between zeros. -/
def runLengths (bits : BitString) : List Nat := (bits.splitOn false).map List.length

/-- DESTUFF read directly: after a fifth 1 in a row the next bit, if there is one, is dropped (42_bitstuffer.md R109).
The first argument is the number of 1s in a row just copied. -/
def dropMarkers : Nat → BitString → BitString
  | _, [] => []
  | _, false :: t => false :: dropMarkers 0 t
  | 4, [true] => [true]
  | 4, true :: _ :: t => true :: dropMarkers 0 t
  | c, true :: t => true :: dropMarkers (c + 1) t

/-- Six 1s in a row stand somewhere in the string. -/
def HasSixOnes (x : BitString) : Prop := List.replicate 6 true <:+: x

/-- `datafld` of 30_encoding.md R63: digits, with at most one pair of brackets, around exactly one of them. `st` is the
digits without the brackets. -/
def DataFieldText (raw : SymString) (st : BitString) : Prop :=
  raw = txt st ∨ ∃ a b c, st = a ++ b :: c ∧ raw = txt a ++ [symOpen, chr b, symClose] ++ txt c

/-- A line without terminator: the five labels of 30_encoding.md R62 and R63 in order, the frame's fields as digits, and
`raw` as the Data field. -/
def lineText (f : FrameFields) (raw : SymString) : SymString :=
  labelFlag ++ txt f.flag ++ labelDest ++ txt f.dest ++ labelSrc ++ txt f.src ++ labelData ++ raw ++ labelFcs ++ txt f.fcs

/-- The text is a line for the frame `f` (30_encoding.md R63, R64, 43_frame.md R133, R134): grammar and lengths, with
the Data digits destuffing to `f.data`, and at most one trailing line feed. -/
def WireLine (cfg : Config) (text : SymString) (f : FrameFields) : Prop :=
  frameTyped cfg f = true ∧
  ∃ raw st, DataFieldText raw st ∧ destuff st = f.data ∧ (text = lineText f raw ∨ text = lineText f raw ++ [symLF])

/-- How many symbols a rendered line has, with `q` markers (30_encoding.md R66). -/
def lineLength (cfg : Config) (q : Nat) : Nat :=
  49 + 16 + (cfg.l + q) + (if 1 ≤ q then 2 else 0) + fcsLength cfg

/-- What the results of a normal completion always satisfy, whatever the operands were: a codeword's length is no power
of two (41_hamming.md R86), a syndrome is in range and the data has the length of R95, a stuffed string holds no six
1s and its last marker is a 0 (42_bitstuffer.md R107, R112), a built frame is one of 43_frame.md R122, a parsed frame
has the field lengths of R120. -/
def ResultsSound (cfg : Config) : Results → Prop
  | .txt2bits _ => True
  | .henc cw => isPow2 cw.length = false
  | .hdec data errpos => ∃ n, 1 ≤ n ∧ data.length = n - bitlen n ∧ errpos < 2 ^ bitlen n
  | .stuff stuffed last => ¬ HasSixOnes stuffed ∧ ∀ p, last = some p → 5 ≤ p ∧ stuffed[p]? = some false
  | .destuff _ => True
  | .build f =>
    frameTyped cfg f = true ∧ num f.flag = cfg.gid.toNat ∧ f.dest = [false, false, false, false] ∧ num f.src ≤ 9 ∧
      f.fcs = henc f.data
  | .render text => symLF ∉ text
  | .parse f => frameTyped cfg f = true
  | .corrupt _ => True

/-- A response in the port carries sound results within capacity, or none. -/
def ResponseSound (cfg : Config) : Response → Prop
  | .ok r => ResultsSound cfg r ∧ lengthsFit cfg (resultLengths r) = true
  | .formatError _ => True
  | .illegalOp => True

/-- The invariant: the configuration is within range (70_reset_and_hazards.md R197) and a response in the port is
sound. -/
def Inv (s : State) : Prop :=
  configLegal s.cfg = true ∧ ∀ r, s.response = some r → ResponseSound s.cfg r

/-- The probability of an event under the law 44_channel.md R150 gives the draw at length `n`: the sum over the draws
the event holds of. -/
noncomputable def probabilityThat (names : RealNames) (order : PairOrder) (cfg : Config) (n : Nat)
    (event : Draw → Bool) : ℝ :=
  (((drawsOf n).filter event).map (drawProbability names order cfg n)).sum

/-- The unordered pair `{ka, kb}` of a draw is `{a, b}`. -/
def Draw.pairIs (a b : Nat) (d : Draw) : Bool := decide (d.ka = a ∧ d.kb = b ∨ d.ka = b ∧ d.kb = a)

/-- The counter events after the last reset, latest first. -/
def sinceReset (es : List CounterEvent) : List CounterEvent := es.reverse.takeWhile fun e => e != .reset

/-- The bytes written on a pair in a list of events. -/
def bytesWritten (p : Pair) (es : List CounterEvent) : Nat :=
  (es.map fun e => match e with | .wrote q n => if q = p then n else 0 | .read _ _ => 0 | .reset => 0).sum

/-- The bytes read on a pair in a list of events. -/
def bytesRead (p : Pair) (es : List CounterEvent) : Nat :=
  (es.map fun e => match e with | .read q n => if q = p then n else 0 | .wrote _ _ => 0 | .reset => 0).sum

/-- Every legally configured instance with unbounded buffers, as the spec's rules assume (20_memory.md R41), gives the
operation this response, and nothing else changes. -/
def Answers (i : Instr) (r : Response) : Prop :=
  ∀ s : State, configLegal s.cfg = true → s.cfg.nmax = none → exec i s = .next (s.respond r)

/-- 00_scope.md R19: the eight testable properties of the source, "theorems a model should be able to prove from the
operation rules", in this model's terms. `Laws.sourceProperties_of_obligations` derives them from the statements. -/
structure SourceProperties : Prop where
  /-- 41_hamming.md R99, for non-empty data (90_conflicts.md C1). -/
  property1 : ∀ d : BitString, d ≠ [] → Answers (.hdec (txt (henc d))) (.ok (.hdec d 0))
  /-- 41_hamming.md R100. -/
  property2 : ∀ (d : BitString) (p : Nat), d ≠ [] → 1 ≤ p → p ≤ d.length + parityCount d.length →
    Answers (.hdec (txt (flipAt (henc d) (p - 1)))) (.ok (.hdec d p))
  /-- 42_bitstuffer.md R111. -/
  property3 : ∀ x : BitString, Answers (.destuff (stuffScan x).out) (.ok (.destuff x))
  /-- 42_bitstuffer.md R112; the t-th marker (from 0) stands at output index `a + t + 1` (R108). -/
  property4 : ∀ x : BitString, ¬ HasSixOnes (stuffScan x).out ∧
    ∀ k, ((stuffScan x).out.drop k).take 5 = List.replicate 5 true →
      (stuffScan x).out[k + 5]? = some false ∧ ∃ t a, (markerSites x)[t]? = some a ∧ k + 5 = a + t + 1
  /-- 41_hamming.md R101. -/
  property5 : let d : BitString := [true, false, true, true, false, false, true]
    parityCount d.length = 4 ∧ (henc d).length = 11 ∧
    ∀ p, 1 ≤ p → p ≤ 11 → ∃ errpos, Answers (.hdec (txt (flipAt (henc d) (p - 1)))) (.ok (.hdec d errpos))
  /-- 42_bitstuffer.md R113. -/
  property6 : let x : BitString := [true, true, true, true, true, false, true, true, true, true, true, false]
    Answers (.stuff x) (.ok (.stuff
      [true, true, true, true, true, false, false, true, true, true, true, true, false, false] (some 12))) ∧
    Answers (.destuff [true, true, true, true, true, false, false, true, true, true, true, true, false, false])
      (.ok (.destuff x))
  /-- 44_channel.md R152: one seed of a random source gives one corrupted output, in every run. -/
  property7 : ∀ (source : Nat → Draw) (seed : Nat) (bits : BitString) (s s' t t' : State),
    exec (.corrupt bits (source seed)) s = .next t → exec (.corrupt bits (source seed)) s' = .next t' →
      t.response = t'.response
  /-- 45_session_host.md R163: between resets a counter is the exact sum of what was written or read on its channel. -/
  property8 : ∀ (es : List CounterEvent) (c : Counters) (p : Pair), CounterEvent.reset ∉ es →
    (es.foldl Counters.apply (c.apply .reset)).tx p = bytesWritten p es ∧
    (es.foldl Counters.apply (c.apply .reset)).rx p = bytesRead p es

end Sys2Proof.Machine
end

