-- ==== Sys2Proof/Certificates/Slice0/Obligations.lean ====
section
/-!
DEFINITION. The statements for the provers, from the numbered rules of spec/. Where a statement needs an operand or a
result to be within capacity it says so with `lengthsFit`, which every length meets when NMAX is unbounded
(20_memory.md R41); where it needs the configuration to be within range it says so with `configLegal`
(70_reset_and_hazards.md R197).
-/

open Sys2Proof Sys2Proof.Machine

/-! ## Requests, decoding, the step -/

/-- 30_encoding.md R55 to R57: what the encoder presents, the decoder reads back, with every operand at every value. The
carriage of operands as numbers is the model's choice, logs 2 and 3. -/
def Obligations.DecodeOfEncodeIsTheOperation : Prop :=
  ∀ (cfg : Config) (i : Instr), i.wellFormed cfg = true → decode cfg (encode i) = .ok i

/-- The other direction: a request the decoder accepts is the one the encoder presents, so no two requests select the
same operation with the same operands. A frame it reads has the lengths of 43_frame.md R120. Logs 2 and 3. -/
def Obligations.EncodeOfDecodeIsTheRequest : Prop :=
  ∀ (cfg : Config) (r : Request) (i : Instr), decode cfg r = .ok i →
    encode i = r ∧ ∀ f, i = .render f → frameTyped cfg f = true

/-- The nine codes of 30_encoding.md R56 on requests written out by hand (L = 1 and FCS length 3 for the frame). -/
def Obligations.OperationWordsDecode : Prop :=
  let cfg := Config.withDefaults 21 1
  decode cfg { op := 0b0000, items := [2, 0x41, 0x30] } = .ok (.txt2bits [0x41, 0x30]) ∧
  decode cfg { op := 0b0001, items := [3, 1, 0, 1] } = .ok (.henc [true, false, true]) ∧
  decode cfg { op := 0b0010, items := [3, 0x31, 0x31, 0x30] } = .ok (.hdec [0x31, 0x31, 0x30]) ∧
  decode cfg { op := 0b0011, items := [2, 0, 1] } = .ok (.stuff [false, true]) ∧
  decode cfg { op := 0b0100, items := [1, 1] } = .ok (.destuff [true]) ∧
  decode cfg { op := 0b0101, items := [1, 0x33, 2, 1, 0] } = .ok (.build [0x33] [true, false]) ∧
  decode cfg { op := 0b0110, items := [0, 0, 0, 1, 0, 1, 0, 1, 0, 0, 0, 0, 0, 0, 1, 1, 1, 1, 1, 0] } =
    .ok (.render { flag := [false, false, false, true, false, true, false, true],
                   dest := [false, false, false, false], src := [false, false, true, true],
                   data := [true], fcs := [true, true, false] }) ∧
  decode cfg { op := 0b0111, items := [1, 0x0A] } = .ok (.parse [0x0A]) ∧
  decode cfg { op := 0b1000, items := [2, 1, 0, 1, 0, 0, 7, 7] } =
    .ok (.corrupt [true, false] { e1 := true, k1 := 0, e2 := false, ka := 7, kb := 7 })

/-- 60_exceptions.md R173: a reserved code is refused before any operand is examined, with status 15, no result and no
change; it is no FormatError. That the request leaves the queue is the model's choice (log 5), that the refusal is a
response and a next state is DEDUCED (log 12). -/
def Obligations.ReservedCodeGetsStatusFifteen : Prop :=
  (∀ (s : State) (r : Request) (rest : List Request),
    s.pending = r :: rest → configLegal s.cfg = true → 9 ≤ r.op.toNat →
      step s = .next { cfg := s.cfg, pending := rest, response := some .illegalOp }) ∧
  Response.illegalOp.status = 15 ∧ ∀ c : Cause, Response.illegalOp ≠ .formatError c

/-- 30_encoding.md R58: exactly the codes 9 to 15 are reserved, whatever the operands; each of the other nine selects an
operation for some operands, under every configuration. -/
def Obligations.NineCodesSelectAndSevenAreReserved : Prop :=
  ∀ (cfg : Config) (op : BitVec 4),
    (9 ≤ op.toNat → ∀ items, decode cfg { op := op, items := items } = .error .reservedOp) ∧
    (op.toNat < 9 → (∃ items i, decode cfg { op := op, items := items } = .ok i) ∧
      ∀ items, decode cfg { op := op, items := items } ≠ .error .reservedOp)

/-- One step is one transaction (00_scope.md R6, 20_memory.md R49): it takes the oldest request, delivers the earlier
response, and performs the decoded operation. -/
def Obligations.StepRunsTheDecodedOperation : Prop :=
  ∀ (s : State) (r : Request) (rest : List Request) (i : Instr),
    s.pending = r :: rest → decode s.cfg r = .ok i →
      step s = exec i { cfg := s.cfg, pending := rest, response := none }

/-- 20_memory.md R49: requests are performed in the order presented. A request presented behind others does not change
what the step does, and waits behind the rest; one presented to an idle block is the next performed. -/
def Obligations.RequestsArePerformedInOrder : Prop :=
  (∀ (s t : State) (r : Request), s.pending ≠ [] → step s = .next t → step (s.present r) = .next (t.present r)) ∧
  (∀ (s : State) (i : Instr), s.pending = [] → i.wellFormed s.cfg = true →
    step (s.present (encode i)) = exec i { cfg := s.cfg, pending := [], response := none })

/-- With nothing presented the block idles; the response, being delivered, is kept no longer (10_state.md R26,
60_exceptions.md R186). The idle step is the model's choice, log 6. -/
def Obligations.IdleStepChangesNoRegister : Prop :=
  ∀ s : State, s.pending = [] → step s = .next { cfg := s.cfg, pending := [], response := none }

/-- 30_encoding.md R59: presented operands that are no values of the operand types are refused. Log 13. That operands, or
a frame, which are both ill-typed and longer than NMAX are refused under these names, and not under capacityExceeded, is
the model's choice, log 22. -/
def Obligations.IllTypedRequestIsRefused : Prop :=
  (∀ (s : State) (r : Request) (rest : List Request),
    s.pending = r :: rest → configLegal s.cfg = true → decode s.cfg r = .error .illTyped →
      step s = .refused .illTypedRequest) ∧
  (∀ (s : State) (f : FrameFields), configLegal s.cfg = true →
    (f.flag.length ≠ 8 ∨ f.dest.length ≠ 4 ∨ f.src.length ≠ 4 ∨ f.data.length ≠ s.cfg.l ∨
      f.fcs.length ≠ s.cfg.l + parityCount s.cfg.l) →
    exec (.render f) s = .refused .illTypedFrame)

/-! ## State, frame, invariants, reset -/

/-- The frame of all nine operations (TXT2BITS, HENC, HDEC, STUFF, DESTUFF, BUILD, RENDER, PARSE, CORRUPT), 10_state.md
R20 to R22, 60_exceptions.md R170: a next state differs in the response alone; no configuration register changes, no
presented request is taken or added, and there is no memory. -/
def Obligations.OperationsChangeOnlyTheResponse : Prop :=
  ∀ (i : Instr) (s t : State), exec i s = .next t →
    t.cfg = s.cfg ∧ t.pending = s.pending ∧ ∃ r, t.response = some r ∧ r ≠ .illegalOp

/-- 10_state.md R22: no step writes a configuration register; a step takes at most the oldest request. -/
def Obligations.StepsNeverWriteTheConfiguration : Prop :=
  ∀ s t : State, step s = .next t → t.cfg = s.cfg ∧ t.pending = s.pending.tail

/-- 10_state.md R20, R28, 20_memory.md R46: the outcome depends on the operation, its operands and the configuration
alone, not on earlier responses or on what else is presented. -/
def Obligations.OutcomeDependsOnOperandsAndConfiguration : Prop :=
  ∀ (i : Instr) (s s' : State), s.cfg = s'.cfg →
    (∀ t, exec i s = .next t →
      exec i s' = .next { cfg := s'.cfg, pending := s'.pending, response := t.response }) ∧
    (∀ q, exec i s = .refused q → exec i s' = .refused q)

/-- 70_reset_and_hazards.md R197: every operation but BUILD and PARSE gives the same response whatever the
configuration, when both configurations let it complete. -/
def Obligations.OnlyBuildAndParseReadTheConfiguration : Prop :=
  ∀ (i : Instr) (s s' t t' : State),
    (∀ chan payload, i ≠ .build chan payload) → (∀ text, i ≠ .parse text) →
    exec i s = .next t → exec i s' = .next t' → t.response = t'.response

/-- Every step keeps the invariant: the configuration stays within range, and whatever response stands in the port is
sound: stuffed strings without six 1s, built frames as 43_frame.md R122 says, parsed frames with the lengths of R120,
syndromes in range, codewords of no power-of-two length, all within capacity. -/
def Obligations.EveryStepKeepsTheInvariant : Prop :=
  ∀ s t : State, Inv s → step s = .next t → Inv t

/-- The invariant holds right after reset of every legally configured instance. -/
def Obligations.InvariantHoldsAtReset : Prop :=
  (∀ cfg : Config, configLegal cfg = true → Inv (State.resetWith cfg)) ∧ Inv State.reset

/-- 10_state.md R35: the reset values, for every configured group id and data length. -/
def Obligations.ResetLeavesTheBlockIdle : Prop :=
  ∀ (gid : BitVec 8) (l : Nat),
    let s := State.resetWith (Config.withDefaults gid l)
    s.cfg.gid = gid ∧ s.cfg.l = l ∧
    (∀ names, s.cfg.p1.value names * 10 = 6 ∧ s.cfg.p2.value names * 100 = 25) ∧
    s.pending = [] ∧ s.response = none

/-- 70_reset_and_hazards.md R195: a reset between two operations keeps the configuration, leaves no response pending,
and cannot be observed in any later response. What it does to requests not yet taken is the model's choice, log 17. -/
def Obligations.ResetBetweenOperationsIsUnobservable : Prop :=
  ∀ (i : Instr) (s t : State), exec i s = .next t →
    s.resetEvent.cfg = s.cfg ∧ s.resetEvent.response = none ∧
    exec i s.resetEvent = .next { cfg := s.cfg, pending := [], response := t.response }

/-- 93_implementation_defined.md U13: outside the range of the configuration nothing is performed. Logs 10, 22. -/
def Obligations.IllegalConfigurationRefusesEverything : Prop :=
  ∀ s : State, configLegal s.cfg = false →
    (∀ i, exec i s = .refused .illegalConfiguration) ∧
    (∀ r rest, s.pending = r :: rest → step s = .refused .illegalConfiguration)

/-- 20_memory.md R41: a typed operation with an operand longer than NMAX is refused, and no completed operation delivers
a result longer than NMAX; nothing is truncated. A typed operation is refused for no other reason. Logs 9, 22. -/
def Obligations.OverlongStringsAreRefused : Prop :=
  (∀ (i : Instr) (s : State), configLegal s.cfg = true → i.wellFormed s.cfg = true →
    lengthsFit s.cfg (operandLengths i) = false → exec i s = .refused .capacityExceeded) ∧
  (∀ (i : Instr) (s t : State) (r : Results) (m n : Nat), exec i s = .next t → t.response = some (.ok r) →
    s.cfg.nmax = some m → n ∈ resultLengths r → n ≤ m) ∧
  (∀ (i : Instr) (s : State) (q : Refusal), configLegal s.cfg = true → i.wellFormed s.cfg = true →
    exec i s = .refused q → q = .capacityExceeded)

/-- 00_scope.md R15, 70_reset_and_hazards.md R199: with unbounded buffers every well-formed operation completes or raises
its fault, on every operand; none is refused. -/
def Obligations.EveryWellFormedOperationIsAnswered : Prop :=
  ∀ (i : Instr) (s : State), configLegal s.cfg = true → s.cfg.nmax = none → i.wellFormed s.cfg = true →
    ∃ r : Response, r ≠ .illegalOp ∧ exec i s = .next { cfg := s.cfg, pending := s.pending, response := some r }

/-- 60_exceptions.md R171: TXT2BITS, HENC, STUFF, DESTUFF, RENDER and CORRUPT raise no fault under any operand. -/
def Obligations.SixOperationsNeverFault : Prop :=
  ∀ (i : Instr) (s t : State),
    (∀ text, i ≠ .hdec text) → (∀ chan payload, i ≠ .build chan payload) → (∀ text, i ≠ .parse text) →
    exec i s = .next t → ∃ r, t.response = some (.ok r)

/-- 10_state.md R26, 60_exceptions.md R171: the status codes; 0 exactly on a normal completion, 1 to 5 for the causes, 15
for a reserved code, and 6 to 14 never. -/
def Obligations.StatusCodesAreThoseOfTheTable : Prop :=
  (∀ r : Response, (r.status = 0 ↔ ∃ x, r = .ok x) ∧ (r.status = 15 ↔ r = .illegalOp) ∧
    (r.status.toNat ≤ 5 ∨ r.status.toNat = 15)) ∧
  (∀ c : Cause, (Response.formatError c).status.toNat =
    match c with
    | .emptyCodeword => 1 | .nonbinaryCodeword => 2 | .addrSuffix => 3 | .payloadTooLong => 4 | .wireText => 5)

/-! ## Operators, TXT2BITS -/

/-- 00_scope.md R12, 40_bitvector.md R82: the operators meet their defining sentences: `ispow2`, `bitlen`, `bin_w` with
`num` its inverse, and `bits_of`, defined exactly on the texts of bit strings. -/
def Obligations.OperatorsMeetTheirDefinitions : Prop :=
  (∀ k, isPow2 k = true ↔ ∃ t, k = 2 ^ t) ∧
  (bitlen 0 = 0 ∧ ∀ n, 1 ≤ n → 1 ≤ bitlen n ∧ 2 ^ (bitlen n - 1) ≤ n ∧ n < 2 ^ bitlen n) ∧
  (∀ w v, v < 2 ^ w → (binW w v).length = w ∧ num (binW w v) = v) ∧
  (∀ b, binW b.length (num b) = b) ∧
  (∀ t b, bitsOf t = some b ↔ t = txt b)

/-- TXT2BITS completes for every text (40_bitvector.md R76): `0` and `1` are literal bits, any other symbol gives its
eight bits, most significant first; the length is one per binary digit and eight per other symbol. -/
def Obligations.Txt2bitsExpandsEverySymbol : Prop :=
  ∀ (text : SymString) (s : State),
    let digits := text.countP fun c => c == 0x30 || c == 0x31
    let n := digits + 8 * (text.length - digits)
    configLegal s.cfg = true → lengthsFit s.cfg [text.length] = true → lengthsFit s.cfg [n] = true →
    ∃ bits : BitString,
      exec (.txt2bits text) s = .next { cfg := s.cfg, pending := s.pending, response := some (.ok (.txt2bits bits)) } ∧
      bits.length = n ∧
      bits = text.flatMap fun c =>
        if c = 0x30 then [false] else if c = 0x31 then [true]
        else [c.getLsbD 7, c.getLsbD 6, c.getLsbD 5, c.getLsbD 4, c.getLsbD 3, c.getLsbD 2, c.getLsbD 1, c.getLsbD 0]

/-! ## HammingCodec -/

/-- 41_hamming.md R85: `r(m)` is the least `r` with `2^r ≥ m + r + 1`, and its ranges. The ranges are the spec's own
inference: "The table is computed from the definition." -/
def Obligations.ParityCountIsMinimal : Prop :=
  (∀ m, m + parityCount m + 1 ≤ 2 ^ parityCount m ∧ ∀ r, r < parityCount m → 2 ^ r < m + r + 1) ∧
  (∀ m t, 2 ≤ t → (parityCount m = t ↔ 2 ^ (t - 1) + 1 ≤ m + t ∧ m + t + 1 ≤ 2 ^ t)) ∧
  (∀ m, parityCount m ≠ 1) ∧ parityCount 0 = 0

/-- 41_hamming.md R86, marked there as derived from R85: with `n = m + r(m)`, `bitlen(n) = r(m)`, the data positions in
1 to `n` number `m`, and for `m ≥ 1` the length is no power of two and lies between `2^(r-1)` and `2^r`. -/
def Obligations.CodewordGeometry : Prop :=
  ∀ m, bitlen (m + parityCount m) = parityCount m ∧
    ((positions (m + parityCount m)).filter fun k => !isPow2 k).length = m ∧
    (1 ≤ m → isPow2 (m + parityCount m) = false ∧ 2 ^ (parityCount m - 1) < m + parityCount m ∧
      m + parityCount m < 2 ^ parityCount m)

/-- 41_hamming.md R87, marked there as derived from R86: `dpos` lists the positive integers that are no powers of two,
in ascending order, starting at 3. -/
def Obligations.DataPositionsAreTheNonPowersInOrder : Prop :=
  dpos 0 = 3 ∧ ∀ j, isPow2 (dpos j) = false ∧ dpos j < dpos (j + 1) ∧
    ∀ k, dpos j < k → k < dpos (j + 1) → isPow2 k = true

/-- HENC completes for every bit string, the empty one too, with a codeword of `m + r(m)` bits: data bit `j` at position
`dpos(j)`, and at position `2^i` the XOR of the other covered bits, which is even parity over the whole cover
(41_hamming.md R89, R90). -/
def Obligations.HencPlacesDataAndParity : Prop :=
  ∀ (data : BitString) (s : State),
    configLegal s.cfg = true → lengthsFit s.cfg [data.length] = true →
    lengthsFit s.cfg [data.length + parityCount data.length] = true →
    ∃ cw : BitString,
      exec (.henc data) s = .next { cfg := s.cfg, pending := s.pending, response := some (.ok (.henc cw)) } ∧
      cw.length = data.length + parityCount data.length ∧
      (∀ j, j < data.length → bitAt cw (dpos j) = data.getD j false) ∧
      (∀ i, i < parityCount data.length →
        bitAt cw (2 ^ i) = xorOver cw ((cover i cw.length).filter fun k => decide (k ≠ 2 ^ i)) ∧
        coveredOnes cw i % 2 = 0)

/-- 41_hamming.md R90: HENC is linear over GF(2) on data of one length. -/
def Obligations.HencIsLinear : Prop :=
  ∀ a b : BitString, a.length = b.length →
    henc (List.zipWith xor a b) = List.zipWith xor (henc a) (henc b)

/-- 41_hamming.md R91: HDEC's two faults, emptiness tested first, and no other: on every non-empty binary text it
completes. -/
def Obligations.HdecFaultsAreTheTwo : Prop :=
  ∀ (text : SymString) (s : State), configLegal s.cfg = true → lengthsFit s.cfg [text.length] = true →
    (text = [] → exec (.hdec text) s =
      .next { cfg := s.cfg, pending := s.pending, response := some (.formatError .emptyCodeword) }) ∧
    (text ≠ [] → (∃ c ∈ text, c ≠ 0x30 ∧ c ≠ 0x31) → exec (.hdec text) s =
      .next { cfg := s.cfg, pending := s.pending, response := some (.formatError .nonbinaryCodeword) }) ∧
    (text ≠ [] → (∀ c ∈ text, c = 0x30 ∨ c = 0x31) → ∃ data errpos, exec (.hdec text) s =
      .next { cfg := s.cfg, pending := s.pending, response := some (.ok (.hdec data errpos)) })

/-- HDEC completes on every non-empty codeword of any length (41_hamming.md R92 to R96). Bit `i` of `errpos` says
whether check `i` disagrees, `errpos < 2^bitlen(n)`, and it is 0 exactly when every check agrees (R93). The word is
corrected exactly when `1 ≤ errpos ≤ n`, the data being read at the data positions in order; a flip of a parity
position changes no data (R94). The number of data bits, `n - bitlen(n)`, is the spec's own inference (R95, "derived:
from rules R86 and R92"). -/
def Obligations.HdecFollowsTheSyndrome : Prop :=
  ∀ (cw : BitString) (s : State), configLegal s.cfg = true → lengthsFit s.cfg [cw.length] = true → cw ≠ [] →
    ∃ (data : BitString) (errpos : Nat),
      exec (.hdec (txt cw)) s =
        .next { cfg := s.cfg, pending := s.pending, response := some (.ok (.hdec data errpos)) } ∧
      errpos < 2 ^ bitlen cw.length ∧
      (∀ i, i < bitlen cw.length → errpos.testBit i = decide (coveredOnes cw i % 2 = 1)) ∧
      (errpos = 0 ↔ ∀ i, i < bitlen cw.length → coveredOnes cw i % 2 = 0) ∧
      data.length = cw.length - bitlen cw.length ∧
      (∀ j, j < data.length → data[j]? =
        some (bitAt (if 1 ≤ errpos ∧ errpos ≤ cw.length then flipAt cw (errpos - 1) else cw) (dpos j))) ∧
      (isPow2 errpos = true → ∀ j, j < data.length → data[j]? = some (bitAt cw (dpos j)))

/-- Property 1 of the source, 41_hamming.md R99: a fresh codeword decodes to its data with `errpos = 0`; for the empty
data the property does not hold, the empty codeword faults. -/
def Obligations.FreshCodewordDecodesClean : Prop :=
  ∀ (d : BitString) (s : State), configLegal s.cfg = true →
    lengthsFit s.cfg [d.length + parityCount d.length] = true →
    (d ≠ [] → exec (.hdec (txt (henc d))) s =
      .next { cfg := s.cfg, pending := s.pending, response := some (.ok (.hdec d 0)) }) ∧
    (d = [] → henc d = [] ∧ exec (.hdec (txt (henc d))) s =
      .next { cfg := s.cfg, pending := s.pending, response := some (.formatError .emptyCodeword) })

/-- Property 2 of the source with the reported position, 41_hamming.md R100 (the value of `errpos` is the spec's own
addition: "The value of `errpos` is this spec's addition to the property and follows from the rules"): every single
flip of a codeword is located and corrected. -/
def Obligations.EverySingleErrorIsCorrected : Prop :=
  ∀ (d : BitString) (p : Nat) (s : State), configLegal s.cfg = true →
    lengthsFit s.cfg [d.length + parityCount d.length] = true →
    1 ≤ p → p ≤ d.length + parityCount d.length →
    exec (.hdec (txt (flipAt (henc d) (p - 1)))) s =
      .next { cfg := s.cfg, pending := s.pending, response := some (.ok (.hdec d p)) }

/-- Property 5 of the source, 41_hamming.md R101, with the codeword of R90. -/
def Obligations.PropertyFiveElevenFlips : Prop :=
  let d : BitString := [true, false, true, true, false, false, true]
  henc d = [true, false, true, false, false, true, true, true, false, false, true] ∧ parityCount 7 = 4 ∧
  ∀ p ∈ [1, 2, 3, 4, 5, 6, 7, 8, 9, 10, 11], hdec (txt (flipAt (henc d) (p - 1))) = .ok (.hdec d p)

/-- 41_hamming.md R102, marked there as derived: whatever positions of a codeword are flipped, HDEC completes and reports
the bitwise XOR of the position numbers. -/
def Obligations.SyndromeIsTheXorOfErrorPositions : Prop :=
  ∀ (d : BitString) (ps : List Nat) (s : State), d ≠ [] → configLegal s.cfg = true →
    lengthsFit s.cfg [d.length + parityCount d.length] = true →
    (∀ p ∈ ps, 1 ≤ p ∧ p ≤ d.length + parityCount d.length) →
    ∃ data, exec (.hdec (txt (flipPositions (henc d) ps))) s =
      .next { cfg := s.cfg, pending := s.pending, response := some (.ok (.hdec data (xorAll ps))) }

/-- 41_hamming.md R98, R102, marked there as derived: two errors are never signalled. The syndrome is never 0; when it is
a position of the word a third bit is flipped, otherwise none. -/
def Obligations.TwoErrorsAreSilentlyMiscorrected : Prop :=
  ∀ (d : BitString) (p q : Nat) (s : State), configLegal s.cfg = true →
    lengthsFit s.cfg [d.length + parityCount d.length] = true →
    1 ≤ p → p < q → q ≤ d.length + parityCount d.length →
    p ^^^ q ≠ 0 ∧
    exec (.hdec (txt (flipPositions (henc d) [p, q]))) s =
      .next { cfg := s.cfg, pending := s.pending, response := some (.ok (.hdec
        (extractData (flipPositions (henc d)
          (if p ^^^ q ≤ d.length + parityCount d.length then [p, q, p ^^^ q] else [p, q])))
        (p ^^^ q))) }

/-! ## BitStuffer -/

/-- STUFF completes for every bit string (42_bitstuffer.md R106 to R108): every bit is copied, each fifth 1 of a run is
followed by a marker 0, and `last` is the 0-based output index of the last marker, `none` when there is none; a marker is
a 0 after five 1s (R107). That index as the input index of the fifth 1 plus the number of markers is the spec's own
inference (R108, "derived: from rule R106"). -/
def Obligations.StuffInsertsAfterEveryFifthOne : Prop :=
  ∀ (bits : BitString) (s : State),
    configLegal s.cfg = true → lengthsFit s.cfg [bits.length] = true →
    lengthsFit s.cfg [bits.length + (markerSites bits).length] = true →
    ∃ (stuffed : BitString) (last : Option Nat),
      exec (.stuff bits) s =
        .next { cfg := s.cfg, pending := s.pending, response := some (.ok (.stuff stuffed last)) } ∧
      stuffed = ((List.range bits.length).flatMap fun i =>
        if i ∈ markerSites bits then [bits.getD i false, false] else [bits.getD i false]) ∧
      last = (markerSites bits).getLast?.map (fun a => a + (markerSites bits).length) ∧
      ∀ p, last = some p → 5 ≤ p ∧ stuffed[p]? = some false ∧
        (stuffed.drop (p - 5)).take 5 = [true, true, true, true, true]

/-- 42_bitstuffer.md R108, marked there as derived: a run of length `l` receives `floor(l/5)` markers; the stuffed string
is longer by their number, which is at most a fifth of the length. -/
def Obligations.RunsReceiveAFifthOfTheirLength : Prop :=
  ∀ bits : BitString,
    (markerSites bits).length = ((runLengths bits).map fun l => l / 5).sum ∧
    (stuffScan bits).out.length = bits.length + ((runLengths bits).map fun l => l / 5).sum ∧
    ((runLengths bits).map fun l => l / 5).sum ≤ bits.length / 5

/-- DESTUFF completes for every bit string (42_bitstuffer.md R109): the bit after a fifth 1 is dropped unexamined, if
there is one; every other bit is copied. -/
def Obligations.DestuffDropsTheBitAfterFiveOnes : Prop :=
  ∀ (x : BitString) (s : State), configLegal s.cfg = true → lengthsFit s.cfg [x.length] = true →
    exec (.destuff x) s =
      .next { cfg := s.cfg, pending := s.pending, response := some (.ok (.destuff (dropMarkers 0 x))) }

/-- Property 3 of the source, 42_bitstuffer.md R111: destuffing what STUFF delivered gives the operand back, whatever the
state the second request meets under the same configuration. -/
def Obligations.DestuffInvertsStuff : Prop :=
  ∀ (x y : BitString) (last : Option Nat) (s t s' : State),
    exec (.stuff x) s = .next t → t.response = some (.ok (.stuff y last)) → s'.cfg = s.cfg →
    exec (.destuff y) s' =
      .next { cfg := s'.cfg, pending := s'.pending, response := some (.ok (.destuff x)) }

/-- Property 4 of the source, 42_bitstuffer.md R112, marked there as derived: a stuffed string holds no six 1s in a row,
and five 1s in a row are followed by a 0 that is a marker, so it never ends in five 1s. The t-th marker (from 0) stands
at output index `a + t + 1`, `a` being the input index of its fifth 1 (R108). -/
def Obligations.StuffedStringsHoldNoSixOnes : Prop :=
  ∀ x : BitString, ¬ HasSixOnes (stuffScan x).out ∧
    ∀ k, ((stuffScan x).out.drop k).take 5 = [true, true, true, true, true] →
      (stuffScan x).out[k + 5]? = some false ∧
      ∃ t a, (markerSites x)[t]? = some a ∧ k + 5 = a + t + 1

/-- 42_bitstuffer.md R110, marked there as derived: the image of STUFF is the strings without six 1s in a row that do
not end in five 1s; DESTUFF is not injective. -/
def Obligations.ImageOfStuff : Prop :=
  (∀ y : BitString, (stuffScan (destuff y)).out = y ↔
    ¬ HasSixOnes y ∧ ¬ [true, true, true, true, true] <:+ y) ∧
  destuff [true, true, true, true, true, false] = [true, true, true, true, true] ∧
  destuff [true, true, true, true, true, true] = [true, true, true, true, true] ∧
  destuff [true, true, true, true, true] = [true, true, true, true, true]

/-- Property 6 of the source, 42_bitstuffer.md R113. -/
def Obligations.PropertySixTwoMarkers : Prop :=
  let x : BitString := [true, true, true, true, true, false, true, true, true, true, true, false]
  let y : BitString := [true, true, true, true, true, false, false, true, true, true, true, true, false, false]
  (stuffScan x).out = y ∧ (stuffScan x).last = some 12 ∧ y.length = x.length + 2 ∧ destuff y = x

/-! ## FrameBuilder -/

/-- 43_frame.md R124, R126: BUILD checks the channel suffix before the payload length. -/
def Obligations.BuildChecksTheSuffixFirst : Prop :=
  ∀ (chan : SymString) (payload : BitString) (s : State), configLegal s.cfg = true →
    lengthsFit s.cfg [chan.length, payload.length] = true →
    ((∀ c, chan.getLast? = some c → c.toNat < 0x30 ∨ 0x39 < c.toNat) →
      exec (.build chan payload) s =
        .next { cfg := s.cfg, pending := s.pending, response := some (.formatError .addrSuffix) }) ∧
    ((∃ c, chan.getLast? = some c ∧ 0x30 ≤ c.toNat ∧ c.toNat ≤ 0x39) → s.cfg.l < payload.length →
      exec (.build chan payload) s =
        .next { cfg := s.cfg, pending := s.pending, response := some (.formatError .payloadTooLong) })

/-- BUILD completes when the last symbol is a digit and the payload fits (43_frame.md R122, R125): flag the 8-bit group
id, dest zero, src the digit, data the payload right-filled with zeros to exactly `L` bits (40_bitvector.md R79), fcs
the codeword of data. Only the last symbol of the identifier matters. -/
def Obligations.BuildMakesTheFrame : Prop :=
  ∀ (chan : SymString) (c : Sym) (payload : BitString) (s : State), configLegal s.cfg = true →
    lengthsFit s.cfg [chan.length, payload.length] = true →
    lengthsFit s.cfg [8, 4, s.cfg.l, s.cfg.l + parityCount s.cfg.l] = true →
    chan.getLast? = some c → 0x30 ≤ c.toNat → c.toNat ≤ 0x39 → payload.length ≤ s.cfg.l →
    ∃ f : FrameFields,
      exec (.build chan payload) s =
        .next { cfg := s.cfg, pending := s.pending, response := some (.ok (.build f)) } ∧
      f.flag.length = 8 ∧ num f.flag = s.cfg.gid.toNat ∧
      f.dest = [false, false, false, false] ∧
      f.src.length = 4 ∧ num f.src = c.toNat - 0x30 ∧
      f.data.length = s.cfg.l ∧ f.data.take payload.length = payload ∧
      (∀ j, payload.length ≤ j → j < s.cfg.l → f.data[j]? = some false) ∧
      f.fcs = henc f.data ∧ f.fcs.length = s.cfg.l + parityCount s.cfg.l

/-- 43_frame.md R127, marked there as derived: the fcs of a built frame decodes to its data, clean and after every single
flip. -/
def Obligations.BuiltFrameSurvivesOneError : Prop :=
  ∀ (chan : SymString) (payload : BitString) (f : FrameFields) (s t : State),
    exec (.build chan payload) s = .next t → t.response = some (.ok (.build f)) →
    exec (.hdec (txt f.fcs)) s =
      .next { cfg := s.cfg, pending := s.pending, response := some (.ok (.hdec f.data 0)) } ∧
    ∀ k, k < f.fcs.length → exec (.hdec (txt (flipAt f.fcs k))) s =
      .next { cfg := s.cfg, pending := s.pending, response := some (.ok (.hdec f.data (k + 1))) }

/-- RENDER completes for every frame of its type, built or not (43_frame.md R128 to R130): the labels and fields in
order, the Data field the stuffed data with the last marker, always a 0, in brackets when there is one; no line feed
(30_encoding.md R65). The length is the spec's own inference (30_encoding.md R66, "derived: from rules R63 and R64"), and so
is the place of the last marker (42_bitstuffer.md R108). -/
def Obligations.RenderWritesOneLine : Prop :=
  ∀ (f : FrameFields) (s : State), configLegal s.cfg = true → frameTyped s.cfg f = true →
    lengthsFit s.cfg [f.flag.length, f.dest.length, f.src.length, f.data.length, f.fcs.length] = true →
    lengthsFit s.cfg [lineLength s.cfg (markerSites f.data).length] = true →
    ∃ text raw : SymString,
      exec (.render f) s = .next { cfg := s.cfg, pending := s.pending, response := some (.ok (.render text)) } ∧
      text = lineText f raw ∧ text.length = lineLength s.cfg (markerSites f.data).length ∧ symLF ∉ text ∧
      (markerSites f.data = [] → raw = txt f.data) ∧
      (∀ a, (markerSites f.data).getLast? = some a →
        ∃ front back, (stuffScan f.data).out = front ++ false :: back ∧
          front.length = a + (markerSites f.data).length ∧
          raw = txt front ++ [0x5B, 0x30, 0x5D] ++ txt back)

/-- PARSE accepts exactly the lines of the grammar (30_encoding.md R63, R64; 43_frame.md R131 to R135), returning the five
fields, and answers every other text with the one cause FE_WIRE_TEXT. It compares no field's content with anything. -/
def Obligations.ParseAcceptsExactlyTheGrammar : Prop :=
  ∀ (text : SymString) (s : State), configLegal s.cfg = true → lengthsFit s.cfg [text.length] = true →
    (∀ f, WireLine s.cfg text f → exec (.parse text) s =
      .next { cfg := s.cfg, pending := s.pending, response := some (.ok (.parse f)) }) ∧
    ((∀ f, ¬ WireLine s.cfg text f) → exec (.parse text) s =
      .next { cfg := s.cfg, pending := s.pending, response := some (.formatError .wireText) })

/-- 43_frame.md R136, marked there as derived: parsing a rendered line gives the frame back, built or not, and the same
with one line feed appended. -/
def Obligations.ParseInvertsRender : Prop :=
  ∀ (f : FrameFields) (text : SymString) (s t : State),
    exec (.render f) s = .next t → t.response = some (.ok (.render text)) →
    exec (.parse text) s = .next { cfg := s.cfg, pending := s.pending, response := some (.ok (.parse f)) } ∧
    (lengthsFit s.cfg [text.length + 1] = true → exec (.parse (text ++ [symLF])) s =
      .next { cfg := s.cfg, pending := s.pending, response := some (.ok (.parse f)) })

/-! ## ChannelSimulator -/

/-- CORRUPT completes for every bit string with an admissible draw (44_channel.md R147, R148): the result is the operand
xor the mask of the events that happen. At length 0 neither event happens, at length 1 the double flip does not. -/
def Obligations.CorruptXorsTheMask : Prop :=
  ∀ (bits : BitString) (d : Draw) (s : State), configLegal s.cfg = true → lengthsFit s.cfg [bits.length] = true →
    (d.e1 = true → 1 ≤ bits.length → d.k1 < bits.length) →
    (d.e2 = true → 2 ≤ bits.length → d.ka < bits.length ∧ d.kb < bits.length ∧ d.ka ≠ d.kb) →
    ∃ out : BitString,
      exec (.corrupt bits d) s =
        .next { cfg := s.cfg, pending := s.pending, response := some (.ok (.corrupt out)) } ∧
      out.length = bits.length ∧
      ∀ i, i < bits.length → out[i]? = some (bits.getD i false ^^
        ((d.e1 && decide (d.k1 = i)) ^^
          (d.e2 && decide (2 ≤ bits.length) && (decide (d.ka = i) ^^ decide (d.kb = i)))))

/-- 44_channel.md R149, marked there as derived: how many bits differ, zero to three; a coincidence cancels the first
flip. -/
def Obligations.CorruptFlipsZeroToThreeBits : Prop :=
  ∀ (bits : BitString) (d : Draw), 2 ≤ bits.length → drawAdmissible bits.length d = true →
    differingBits bits (corrupt bits d) =
      match d.e1, d.e2 with
      | false, false => 0
      | true, false => 1
      | false, true => 2
      | true, true => if d.k1 = d.ka ∨ d.k1 = d.kb then 1 else 3

/-- 44_channel.md R146: a draw that is not admissible for the length is refused; nothing else about a draw is. Log 14. That
a request whose draw is inadmissible and whose bits are longer than NMAX is refused under the name inadmissibleDraw, and
not capacityExceeded, is the model's choice, log 22. -/
def Obligations.InadmissibleDrawIsRefused : Prop :=
  ∀ (bits : BitString) (d : Draw) (s : State), configLegal s.cfg = true →
    ((d.e1 = true ∧ 1 ≤ bits.length ∧ bits.length ≤ d.k1) ∨
      (d.e2 = true ∧ 2 ≤ bits.length ∧ (bits.length ≤ d.ka ∨ bits.length ≤ d.kb ∨ d.ka = d.kb)) ↔
    exec (.corrupt bits d) s = .refused .inadmissibleDraw)

/-- Property 7 of the source, 44_channel.md R152: equal bits and equal draw give equal results. -/
def Obligations.CorruptIsReproducible : Prop :=
  ∀ (bits : BitString) (d : Draw) (s s' t t' : State),
    exec (.corrupt bits d) s = .next t → exec (.corrupt bits d) s' = .next t' → t.response = t'.response

/-- 44_channel.md R153, marked there as derived: a codeword CORRUPT changed in at most one bit decodes to its data. -/
def Obligations.AtMostOneChannelErrorIsUndone : Prop :=
  ∀ (d : BitString) (draw : Draw) (out : BitString) (s t : State), d ≠ [] →
    exec (.corrupt (henc d) draw) s = .next t → t.response = some (.ok (.corrupt out)) →
    differingBits (henc d) out ≤ 1 →
    ∃ errpos, exec (.hdec (txt out)) s =
      .next { cfg := s.cfg, pending := s.pending, response := some (.ok (.hdec d errpos)) }

/-- 44_channel.md R150: the law of a random source, at every length, for every real P1 and P2, and in whatever order it
presents a pair. The probabilities of the draws are not negative and sum to 1; the single event has probability P1, the
double event P2, independently; `k1` is uniform over the n indices and the unordered pair over the n(n-1)/2 pairs, whether
or not their event happens: the positions are independent of the events and of each other. Every draw is admissible. No
operation reads it (R151). That the law is written down, and what it writes where there is no index or no pair to choose,
are the model's choice, log 23. -/
def Obligations.DrawLawHasTheStatedProbabilities : Prop :=
  ∀ (names : RealNames) (order : PairOrder) (cfg : Config) (n : Nat),
    let p1 := cfg.p1.value names
    let p2 := cfg.p2.value names
    let pairs : ℝ := n * (n - 1) / 2
    let pr := probabilityThat names order cfg n
    (configLegal cfg = true → ∀ d ∈ drawsOf n, 0 ≤ drawProbability names order cfg n d) ∧
    (∀ d ∈ drawsOf n, drawAdmissible n d = true) ∧
    pr (fun _ => true) = 1 ∧ pr (fun d => d.e1) = p1 ∧ pr (fun d => d.e2) = p2 ∧
    (∀ x y, pr (fun d => d.e1 == x && d.e2 == y) = chance p1 x * chance p2 y) ∧
    (∀ k, k < n →
      pr (fun d => d.k1 == k) = 1 / n ∧ pr (fun d => d.e1 && d.k1 == k) = p1 / n ∧
      ∀ x y, pr (fun d => d.e1 == x && d.k1 == k && d.e2 == y) = chance p1 x * (1 / n) * chance p2 y) ∧
    (∀ a b, a < b → b < n →
      pr (Draw.pairIs a b) = 1 / pairs ∧ pr (fun d => d.e2 && Draw.pairIs a b d) = p2 / pairs ∧
      (∀ x y, pr (fun d => d.e1 == x && d.e2 == y && Draw.pairIs a b d) = chance p1 x * chance p2 y * (1 / pairs)) ∧
      ∀ k, k < n →
        pr (fun d => d.k1 == k && Draw.pairIs a b d) = 1 / n * (1 / pairs) ∧
        ∀ x y, pr (fun d => d.e1 == x && d.k1 == k && d.e2 == y && Draw.pairIs a b d) =
          chance p1 x * (1 / n) * chance p2 y * (1 / pairs))

/-! ## The host's paths -/

/-- 30_encoding.md R69: TXLINE completes when the channel ends in a digit and the text's bits fit the data field; the
line is what RENDER delivers for the built frame (flag the group id, dest zero, src the digit, data the padded bits, fcs
their codeword), with one line feed, of the length 30_encoding.md R66 gives plus one. The line is a line of the grammar
for that frame. Stated for unbounded buffers; the host's paths are outside the block, log 20. -/
def Obligations.TxlineSendsTheRenderedFrame : Prop :=
  ∀ (chan text : SymString) (c : Sym) (s : State), configLegal s.cfg = true → s.cfg.nmax = none →
    chan.getLast? = some c → 0x30 ≤ c.toNat → c.toNat ≤ 0x39 → (txt2bits text).length ≤ s.cfg.l →
    ∃ (s' : State) (f : FrameFields) (line raw : SymString),
      txline chan text s = .next (s', some line) ∧ s'.cfg = s.cfg ∧ s'.pending = s.pending ∧
      f.flag.length = 8 ∧ num f.flag = s.cfg.gid.toNat ∧ f.dest = [false, false, false, false] ∧
      f.src.length = 4 ∧ num f.src = c.toNat - 0x30 ∧
      f.data = padTo s.cfg.l (txt2bits text) ∧ f.fcs = henc f.data ∧
      line = render f ++ [symLF] ∧ exec (.render f) s = .next (s.respond (.ok (.render (render f)))) ∧
      render f = lineText f raw ∧ (markerSites f.data = [] → raw = txt f.data) ∧
      (∀ a, (markerSites f.data).getLast? = some a →
        ∃ front back, (stuffScan f.data).out = front ++ false :: back ∧
          front.length = a + (markerSites f.data).length ∧
          raw = txt front ++ [symOpen, 0x30, symClose] ++ txt back) ∧
      WireLine s.cfg line f ∧ line.length = lineLength s.cfg (markerSites f.data).length + 1

/-- 30_encoding.md R69: a path ends at the first fault, with that status and no value. When BUILD faults on the state
TXT2BITS left, TXLINE answers the state BUILD left, and no line; when PARSE faults, RXLINE answers the state PARSE left,
and no data. Conversely a path without a value ended at a fault of BUILD, or of PARSE, whose status stands in the port,
and a path with a value ran every one of its requests to completion. Host path, log 20. -/
def Obligations.PathsEndAtTheFirstFault : Prop :=
  (∀ (chan text : SymString) (p : BitString) (s s1 s2 : State) (c : Cause),
    exec (.txt2bits text) s = .next s1 → s1.response = some (.ok (.txt2bits p)) →
    exec (.build chan p) s1 = .next s2 → s2.response = some (.formatError c) →
    txline chan text s = .next (s2, none)) ∧
  (∀ (line : SymString) (s s1 : State) (c : Cause),
    exec (.parse line) s = .next s1 → s1.response = some (.formatError c) → rxline line s = .next (s1, none)) ∧
  (∀ (chan text : SymString) (s s' : State), txline chan text s = .next (s', none) →
    ∃ s1 c, exec (.txt2bits text) s = .next s1 ∧ exec (.build chan (txt2bits text)) s1 = .next s' ∧
      s'.response = some (.formatError c) ∧ (c = .addrSuffix ∨ c = .payloadTooLong)) ∧
  (∀ (line : SymString) (s s' : State), rxline line s = .next (s', none) →
    exec (.parse line) s = .next s' ∧ s'.response = some (.formatError .wireText)) ∧
  (∀ (chan text line : SymString) (s s' : State), txline chan text s = .next (s', some line) →
    ∃ s1 s2 f t, exec (.txt2bits text) s = .next s1 ∧
      exec (.build chan (txt2bits text)) s1 = .next s2 ∧ s2.response = some (.ok (.build f)) ∧
      exec (.render f) s2 = .next s' ∧ s'.response = some (.ok (.render t)) ∧ line = t ++ [symLF]) ∧
  (∀ (line : SymString) (d : BitString) (e : Nat) (s s' : State), rxline line s = .next (s', some (d, e)) →
    ∃ s1 f, exec (.parse line) s = .next s1 ∧ s1.response = some (.ok (.parse f)) ∧
      exec (.hdec (txt f.fcs)) s1 = .next s' ∧ s'.response = some (.ok (.hdec d e)))

/-- The link end to end, 43_frame.md R136, R137 and 41_hamming.md R100, marked there as derived (95_test_vectors.md P1,
P2): the fcs of a built frame, corrupted in at most one bit, rendered, sent with a line feed, parsed and decoded, gives
the padded payload. -/
def Obligations.OneChannelErrorPerFrameIsCorrectedEndToEnd : Prop :=
  ∀ (chan : SymString) (payload : BitString) (f : FrameFields) (draw : Draw) (c : BitString) (text : SymString)
    (s1 s2 s3 t1 t2 t3 : State),
    s2.cfg = s1.cfg → s3.cfg = s1.cfg →
    exec (.build chan payload) s1 = .next t1 → t1.response = some (.ok (.build f)) →
    exec (.corrupt f.fcs draw) s2 = .next t2 → t2.response = some (.ok (.corrupt c)) →
    differingBits f.fcs c ≤ 1 →
    exec (.render { f with fcs := c }) s3 = .next t3 → t3.response = some (.ok (.render text)) →
    ∀ s : State, s.cfg = s1.cfg → lengthsFit s.cfg [text.length + 1] = true →
      ∃ (s' : State) (errpos : Nat),
        rxline (text ++ [symLF]) s = .next (s', some (padTo s.cfg.l payload, errpos)) ∧
        s'.cfg = s.cfg ∧ s'.pending = s.pending

/-- Property 8 of the source, 45_session_host.md R163: each byte counter is the exact sum of the bytes written or read on
its channel since the last reset (before any reset, on top of its unstated start value, log 20). -/
def Obligations.ByteCountersAreExactSums : Prop :=
  ∀ (es : List CounterEvent) (c : Counters) (p : Pair),
    (es.foldl Counters.apply c).tx p =
      (if CounterEvent.reset ∈ es then 0 else c.tx p) + bytesWritten p (sinceReset es) ∧
    (es.foldl Counters.apply c).rx p =
      (if CounterEvent.reset ∈ es then 0 else c.rx p) + bytesRead p (sinceReset es)

/-- 45_session_host.md R156, R163: a transmit resets all four counters and then adds the bytes written to the TX counter
of its channel, if the call got as far as writing. -/
def Obligations.TransmitResetsAllCounters : Prop :=
  ∀ (p : Pair) (chan text : SymString) (written : SymString → Option Nat) (ss ss' : Session) (out : Option Nat),
    transmitLine p chan text written ss = .next (ss', out) →
    (∀ q, ss'.counters.rx q = 0) ∧ (∀ q, ss'.counters.tx q = if q = p then out.getD 0 else 0)
end

