-- ==== Sys2Proof/Laws/Channel.lean ====
section
/-!
SUPPORT. The choices of the law of the draw and how many there are (44_channel.md R150).
-/

namespace Sys2Proof.Machine

@[simp] theorem mem_indexPairs {n : Nat} {p : Nat × Nat} : p ∈ indexPairs n ↔ p.1 < p.2 ∧ p.2 < n := by
  obtain ⟨a, b⟩ := p
  simp only [indexPairs, List.mem_flatMap, List.mem_map, List.mem_range, Prod.mk.injEq]
  constructor
  · rintro ⟨b', hb, a', ha, rfl, rfl⟩; exact ⟨ha, hb⟩
  · rintro ⟨ha, hb⟩; exact ⟨b, hb, a, ha, rfl, rfl⟩

/-- One more index adds a pair with each of the earlier ones. -/
theorem indexPairs_succ (n : Nat) :
    indexPairs (n + 1) = indexPairs n ++ (List.range n).map fun a => (a, n) := by
  simp [indexPairs, List.range_succ]

/-- Of `n` indices there are `n(n-1)/2` pairs. -/
theorem two_mul_indexPairs_length (n : Nat) : 2 * (indexPairs n).length = n * (n - 1) := by
  induction n with
  | zero => rfl
  | succ n ih =>
    rw [indexPairs_succ, List.length_append, List.length_map, List.length_range, Nat.mul_add, ih]
    cases n <;> simp; ring

/-- Where there is an index, each is one of the choices. -/
theorem singleChoices_of_pos {n : Nat} (h : 1 ≤ n) : singleChoices n = List.range n := by
  simp [singleChoices]; omega

/-- Where there is a pair, each is one of the choices. -/
theorem pairChoices_of_two_le {n : Nat} (h : 2 ≤ n) : pairChoices n = indexPairs n := by
  simp [pairChoices]; omega

theorem singleChoices_length (n : Nat) : (singleChoices n).length = max 1 n := by
  unfold singleChoices; split <;> simp <;> omega

theorem pairChoices_length {n : Nat} (h : 2 ≤ n) : (pairChoices n).length = n * (n - 1) / 2 := by
  rw [pairChoices_of_two_le h]
  have := two_mul_indexPairs_length n
  omega

/-- A draw of the law is any event choice with an index and a pair of the choices, the pair in either order. -/
@[simp] theorem mem_drawsOf {n : Nat} {d : Draw} :
    d ∈ drawsOf n ↔ d.k1 ∈ singleChoices n ∧ ∃ p ∈ pairChoices n, (d.ka, d.kb) ∈ bothOrders p := by
  obtain ⟨e1, k1, e2, ka, kb⟩ := d
  simp only [drawsOf, List.mem_flatMap, List.mem_map, Draw.mk.injEq, List.mem_cons, List.not_mem_nil, or_false]
  constructor
  · rintro ⟨_, -, _, hk, _, -, p, ⟨q, hq, hp⟩, rfl, rfl, rfl, rfl, rfl⟩
    exact ⟨hk, q, hq, hp⟩
  · rintro ⟨hk, q, hq, hp⟩
    exact ⟨e1, by cases e1 <;> simp, k1, hk, e2, by cases e2 <;> simp, (ka, kb), ⟨q, hq, hp⟩, rfl, rfl, rfl, rfl, rfl⟩

@[simp] theorem chance_true (p : ℝ) : chance p true = p := rfl

@[simp] theorem chance_false (p : ℝ) : chance p false = 1 - p := rfl

/-- An event happens or does not. -/
theorem chance_add (p : ℝ) : chance p false + chance p true = 1 := by simp

/-- The two orders of a pair of distinct indices have together probability 1. -/
theorem orderProbability_add (order : PairOrder) (d : Draw) (h : d.ka < d.kb) :
    orderProbability order d + orderProbability order { d with ka := d.kb, kb := d.ka } = 1 := by
  simp [orderProbability, h, h.ne, h.ne', h.not_gt]

/-- Where there is no pair there is no order to choose. -/
theorem orderProbability_of_eq (order : PairOrder) (d : Draw) (h : d.ka = d.kb) : orderProbability order d = 1 := by
  simp [orderProbability, h]

/-- No choice is listed twice. -/
theorem singleChoices_nodup (n : Nat) : (singleChoices n).Nodup := by
  unfold singleChoices; split
  · simp
  · exact List.nodup_range

end Sys2Proof.Machine
end

