-- ==== Sys2Proof/Laws/Config.lean ====
section
/-!
SUPPORT. The probability registers hold every real of [0, 1] and nothing else (00_scope.md R7, log 8).
-/

namespace Sys2Proof

@[simp] theorem Probability.value_rational (names : RealNames) (q : Rat) :
    (Probability.rational q).value names = (q : ℝ) := rfl

@[simp] theorem Probability.value_named (names : RealNames) (n : Nat) :
    (Probability.named n).value names = (names n : ℝ) := rfl

/-- A register's value is legal exactly when it is a real in [0, 1], whatever the names stand for. -/
theorem Probability.legal_iff (p : Probability) :
    p.legal = true ↔ ∀ names : RealNames, 0 ≤ p.value names ∧ p.value names ≤ 1 := by
  cases p with
  | rational q => simp [Probability.legal]; norm_cast; simp
  | named n => simp [Probability.legal, unitInterval.nonneg, unitInterval.le_one]

/-- Every pair of reals in [0, 1] is held by some legal configuration of any group id and data length. -/
theorem every_pair_of_probabilities_is_held (gid : BitVec 8) (l : Nat) (hl : 1 ≤ l) (x y : unitInterval) :
    ∃ (names : RealNames) (cfg : Config), cfg.gid = gid ∧ cfg.l = l ∧ Machine.configLegal cfg = true ∧
      cfg.p1.value names = (x : ℝ) ∧ cfg.p2.value names = (y : ℝ) :=
  ⟨fun n => if n = 0 then x else y, { gid := gid, l := l, p1 := .named 0, p2 := .named 1, nmax := none },
    rfl, rfl, by simp [Machine.configLegal, Probability.legal, hl], by simp, by simp⟩

end Sys2Proof
end

