-- ==== Sys2Proof/Laws/Decode.lean ====
section
/-!
SUPPORT. The readers of presented operands against their writers.
-/

namespace Sys2Proof

@[simp] theorem readBit_toNat (b : Bit) : readBit b.toNat = some b := by cases b <;> rfl

@[simp] theorem readSym_toNat (c : Sym) : readSym c.toNat = some c := by
  have h : c.toNat < 256 := c.isLt
  simp [readSym, h]

/-- Elements written one by one are read back, whatever follows them. -/
theorem readMany_map {α : Type} {f : Nat → Option α} {g : α → Nat} (h : ∀ a, f (g a) = some a) (as : List α)
    (rest : List Nat) : readMany f as.length (as.map g ++ rest) = some (as, rest) := by
  induction as with
  | nil => rfl
  | cons a as ih => simp [readMany, h, ih]

/-- What a reader of `n` elements consumed it can write again. -/
theorem readMany_inv {α : Type} {f : Nat → Option α} {g : α → Nat} (h : ∀ v a, f v = some a → g a = v) :
    ∀ (n : Nat) (items : List Nat) (as : List α) (rest : List Nat),
      readMany f n items = some (as, rest) → as.length = n ∧ items = as.map g ++ rest := by
  intro n
  induction n with
  | zero =>
    intro items as rest e
    simp only [readMany, Option.some.injEq, Prod.mk.injEq] at e
    obtain ⟨rfl, rfl⟩ := e
    exact ⟨rfl, rfl⟩
  | succ n ih =>
    intro items as rest e
    cases items with
    | nil => simp [readMany] at e
    | cons v items =>
      simp only [readMany] at e
      split at e
      case h_1 a as' rest' hv hm =>
        simp only [Option.some.injEq, Prod.mk.injEq] at e
        obtain ⟨rfl, rfl⟩ := e
        obtain ⟨hl, rfl⟩ := ih _ _ _ hm
        exact ⟨by simp [hl], by simp [h _ _ hv]⟩
      case h_2 => cases e

/-- A read bit is the number it was read from. -/
theorem readBit_inv (v : Nat) (b : Bit) (h : readBit v = some b) : b.toNat = v := by
  match v, h with
  | 0, h => cases h; rfl
  | 1, h => cases h; rfl

/-- A read symbol is the number it was read from. -/
theorem readSym_inv (v : Nat) (c : Sym) (h : readSym v = some c) : c.toNat = v := by
  unfold readSym at h
  split at h
  case isTrue hv => cases h; simp; omega
  case isFalse => cases h

end Sys2Proof
end

