-- ==== Sys2Proof/Laws/Operands.lean ====
section
/-!
SUPPORT. The small lemmas of the operators (00_scope.md R12).
-/

namespace Sys2Proof.Machine

@[simp] theorem binW_length (w v : Nat) : (binW w v).length = w := by simp [binW]

@[simp] theorem zeros_length (k : Nat) : (zeros k).length = k := by simp [zeros]

@[simp] theorem flipAt_length (s : BitString) (i : Nat) : (flipAt s i).length = s.length := by simp [flipAt]

/-- An element after one flip. -/
theorem flipAt_getElem? (s : BitString) (i j : Nat) (hj : j < s.length) :
    (flipAt s i)[j]? = some (s.getD j false ^^ decide (i = j)) := by
  unfold flipAt
  by_cases h : i = j <;> simp [List.getD, h, hj]

@[simp] theorem txt_length (b : BitString) : (txt b).length = b.length := by simp [txt]

@[simp] theorem txt_nil : txt [] = [] := rfl

@[simp] theorem txt_cons (x : Bit) (b : BitString) : txt (x :: b) = chr x :: txt b := rfl

@[simp] theorem txt_append (a b : BitString) : txt (a ++ b) = txt a ++ txt b := by simp [txt]

@[simp] theorem bitOf_chr (b : Bit) : bitOf (chr b) = some b := by cases b <;> decide

/-- Padding within the length gives exactly the length. -/
theorem padTo_length {l : Nat} {p : BitString} (h : p.length ≤ l) : (padTo l p).length = l := by
  simp [padTo, h]

@[simp] theorem positions_length (n : Nat) : (positions n).length = n := by simp [positions]

@[simp] theorem mem_positions {n k : Nat} : k ∈ positions n ↔ 1 ≤ k ∧ k ≤ n := by
  simp [positions, List.mem_range'_1]; omega

/-- A position is covered by check `i` exactly when it is in the word and its bit `i` is set. -/
theorem mem_cover {i n k : Nat} : k ∈ cover i n ↔ (1 ≤ k ∧ k ≤ n) ∧ k.testBit i = true := by
  have : (k &&& 2 ^ i = 0) ↔ k.testBit i = false := by
    rw [Nat.and_two_pow]
    cases h : k.testBit i <;> simp
  simp [cover, this]

/-- The XOR over one more position. -/
theorem xorOver_append_singleton (cw : BitString) (ks : List Nat) (k : Nat) :
    xorOver cw (ks ++ [k]) = (xorOver cw ks ^^ bitAt cw k) := by
  simp [xorOver]

end Sys2Proof.Machine
end

