-- ==== Sys2Proof/Laws/Families.lean ====
section
/-!
SUPPORT. The small lemmas of the operations' functions: lengths that the loops keep, one turn of each scan, what the
primitives of PARSE can answer.
-/

namespace Sys2Proof.Machine

/-- TXT2BITS is the symbols' bits in order. -/
theorem txt2bits_eq_flatMap (text : SymString) : txt2bits text = text.flatMap symBits := by
  have h : ∀ (t : SymString) (acc : BitString),
      t.foldl (fun out c => out ++ symBits c) acc = acc ++ t.flatMap symBits := by
    intro t
    induction t with
    | nil => simp
    | cons c t ih => intro acc; simp [ih]
  simpa [txt2bits] using h text []

@[simp] theorem setAt_length (cw : BitString) (k : Nat) (b : Bit) : (setAt cw k b).length = cw.length := by
  simp [setAt]

@[simp] theorem fixParity_length (n : Nat) (cw : BitString) (i : Nat) : (fixParity n cw i).length = cw.length := by
  simp [fixParity]

@[simp] theorem placeFrom_length (ks : List Nat) (d : BitString) : (placeFrom ks d).length = ks.length := by
  induction ks generalizing d with
  | nil => simp [placeFrom]
  | cons k ks ih =>
    unfold placeFrom
    split
    · simp [ih]
    · cases d <;> simp [ih]

/-- A codeword has `m + r(m)` bits. -/
@[simp] theorem henc_length (d : BitString) : (henc d).length = d.length + parityCount d.length := by
  have h : ∀ (is : List Nat) (n : Nat) (cw : BitString), (is.foldl (fixParity n) cw).length = cw.length := by
    intro is
    induction is with
    | nil => simp
    | cons i is ih => intro n cw; simp [ih]
  simp [henc, h]

@[simp] theorem correct_length (cw : BitString) (s : Nat) : (correct cw s).length = cw.length := by
  unfold correct; split <;> simp

/-- STUFF, a 0. -/
@[simp] theorem stuffBit_false (w : StuffRegs) :
    stuffBit w false = { out := w.out ++ [false], cnt := 0, last := w.last } := rfl

/-- STUFF, a 1 that is not the fifth. -/
theorem stuffBit_true_of_ne {w : StuffRegs} (h : w.cnt + 1 ≠ 5) :
    stuffBit w true = { out := w.out ++ [true], cnt := w.cnt + 1, last := w.last } := by
  simp only [stuffBit, if_neg h, if_true]

/-- STUFF, the fifth 1: the marker follows it. -/
theorem stuffBit_true_of_eq {w : StuffRegs} (h : w.cnt + 1 = 5) :
    stuffBit w true =
      { out := w.out ++ [true, false], cnt := 0, last := some (w.out.length + 1) } := by
  simp [stuffBit, h]

/-- The run counter of STUFF stays below 5 between input bits. -/
theorem stuffBit_cnt_lt {w : StuffRegs} (h : w.cnt < 5) (b : Bit) : (stuffBit w b).cnt < 5 := by
  cases b
  · simp
  · by_cases h5 : w.cnt + 1 = 5
    · simp [stuffBit_true_of_eq h5]
    · simp [stuffBit_true_of_ne h5]; omega

/-- DESTUFF, the bit after a fifth 1. -/
theorem destuffBit_skip {w : DestuffRegs} (h : w.skip = true) (b : Bit) :
    destuffBit w b = { out := w.out, cnt := w.cnt, skip := false } := by simp [destuffBit, h]

/-- DESTUFF, a 0 that is copied. -/
theorem destuffBit_false {w : DestuffRegs} (h : w.skip = false) :
    destuffBit w false = { out := w.out ++ [false], cnt := 0, skip := false } := by simp [destuffBit, h]

/-- DESTUFF, a 1 that is copied and not the fifth. -/
theorem destuffBit_true_of_ne {w : DestuffRegs} (h : w.skip = false) (h5 : w.cnt + 1 ≠ 5) :
    destuffBit w true = { out := w.out ++ [true], cnt := w.cnt + 1, skip := false } := by
  simp only [destuffBit, h, if_neg h5, if_true, Bool.false_eq_true, if_false]

/-- DESTUFF, a fifth 1. -/
theorem destuffBit_true_of_eq {w : DestuffRegs} (h : w.skip = false) (h5 : w.cnt + 1 = 5) :
    destuffBit w true = { out := w.out ++ [true], cnt := 0, skip := true } := by
  simp [destuffBit, h, h5]

/-- The digit of a channel identifier (43_frame.md R124). -/
theorem chanDigit_eq_some_iff {chan : SymString} {d : Nat} :
    chanDigit chan = some d ↔
      ∃ c, chan.getLast? = some c ∧ 0x30 ≤ c.toNat ∧ c.toNat ≤ 0x39 ∧ d = c.toNat - 0x30 := by
  unfold chanDigit
  cases chan.getLast? with
  | none => simp
  | some c =>
    simp only [Option.some.injEq]
    split
    case isTrue h => simp [h, eq_comm]
    case isFalse h => simpa using fun h1 h2 => absurd ⟨h1, h2⟩ h

/-- A line past its expected words is their continuation. -/
theorem expect_eq_some_iff {lit t rest : SymString} : expect lit t = some rest ↔ t = lit ++ rest := by
  unfold expect
  split
  case isTrue h =>
    constructor
    · rintro ⟨rfl⟩
      have e := List.take_append_drop lit.length t
      rw [h] at e
      exact e.symm
    · rintro rfl; simp
  case isFalse h =>
    constructor
    · simp
    · rintro rfl; simp at h

/-- The Data field's symbols. -/
theorem isDataSym_chr (b : Bit) : isDataSym (chr b) = true := by cases b <;> decide

end Sys2Proof.Machine
end

