-- ==== Sys2Proof/Laws/State.lean ====
section
/-!
SUPPORT. One lemma per field per update of State.
-/

namespace Sys2Proof.Machine

@[simp] theorem State.respond_cfg (s : State) (r : Response) : (s.respond r).cfg = s.cfg := rfl
@[simp] theorem State.respond_pending (s : State) (r : Response) : (s.respond r).pending = s.pending := rfl
@[simp] theorem State.respond_response (s : State) (r : Response) : (s.respond r).response = some r := rfl

@[simp] theorem State.takeFormatError_cfg (s : State) (c : Cause) : (s.takeFormatError c).cfg = s.cfg := rfl
@[simp] theorem State.takeFormatError_pending (s : State) (c : Cause) :
    (s.takeFormatError c).pending = s.pending := rfl
@[simp] theorem State.takeFormatError_response (s : State) (c : Cause) :
    (s.takeFormatError c).response = some (.formatError c) := rfl

@[simp] theorem State.takeIllegalOp_cfg (s : State) : s.takeIllegalOp.cfg = s.cfg := rfl
@[simp] theorem State.takeIllegalOp_pending (s : State) : s.takeIllegalOp.pending = s.pending := rfl
@[simp] theorem State.takeIllegalOp_response (s : State) : s.takeIllegalOp.response = some .illegalOp := rfl

@[simp] theorem State.accept_cfg (s : State) (rest : List Request) : (s.accept rest).cfg = s.cfg := rfl
@[simp] theorem State.accept_pending (s : State) (rest : List Request) : (s.accept rest).pending = rest := rfl
@[simp] theorem State.accept_response (s : State) (rest : List Request) : (s.accept rest).response = none := rfl

@[simp] theorem State.idle_cfg (s : State) : s.idle.cfg = s.cfg := rfl
@[simp] theorem State.idle_pending (s : State) : s.idle.pending = s.pending := rfl
@[simp] theorem State.idle_response (s : State) : s.idle.response = none := rfl

@[simp] theorem State.present_cfg (s : State) (r : Request) : (s.present r).cfg = s.cfg := rfl
@[simp] theorem State.present_pending (s : State) (r : Request) : (s.present r).pending = s.pending ++ [r] := rfl
@[simp] theorem State.present_response (s : State) (r : Request) : (s.present r).response = s.response := rfl

@[simp] theorem State.resetWith_cfg (cfg : Config) : (State.resetWith cfg).cfg = cfg := rfl
@[simp] theorem State.resetWith_pending (cfg : Config) : (State.resetWith cfg).pending = [] := rfl
@[simp] theorem State.resetWith_response (cfg : Config) : (State.resetWith cfg).response = none := rfl

@[simp] theorem State.resetEvent_cfg (s : State) : s.resetEvent.cfg = s.cfg := rfl
@[simp] theorem State.resetEvent_pending (s : State) : s.resetEvent.pending = [] := rfl
@[simp] theorem State.resetEvent_response (s : State) : s.resetEvent.response = none := rfl

/-- A response written over an earlier one replaces it. -/
@[simp] theorem State.respond_respond (s : State) (r r' : Response) : (s.respond r).respond r' = s.respond r' := rfl

end Sys2Proof.Machine
end

