-- ==== Sys2Proof/Laws/Ops.lean ====
section
/-!
SUPPORT. What the shared operations of Machine/Ops.lean can do, each said once.
-/

namespace Sys2Proof.Machine

variable {q : Option Refusal} {lens : List Nat} {out : Except Cause Results} {s t : State}

/-- A typed operation on a legal configuration, with operands and results within capacity, delivers its results. -/
theorem perform_ok {r : Results} (hc : configLegal s.cfg = true) (ho : lengthsFit s.cfg lens = true)
    (hr : lengthsFit s.cfg (resultLengths r) = true) :
    perform none lens (.ok r) s = .next (s.respond (.ok r)) := by
  simp [perform, hc, ho, hr]

/-- A typed operation on a legal configuration, with operands within capacity, delivers its fault. -/
theorem perform_error {c : Cause} (hc : configLegal s.cfg = true) (ho : lengthsFit s.cfg lens = true) :
    perform none lens (.error c) s = .next (s.takeFormatError c) := by
  simp [perform, hc, ho]

/-- When an operation answers a next state, the configuration was legal, the operands typed and within capacity, and
the next state carries the fault or the results, these within capacity. -/
theorem perform_next_cases (h : perform q lens out s = .next t) :
    configLegal s.cfg = true ∧ q = none ∧ lengthsFit s.cfg lens = true ∧
    ((∃ c, out = .error c ∧ t = s.takeFormatError c) ∨
     ∃ r, out = .ok r ∧ lengthsFit s.cfg (resultLengths r) = true ∧ t = s.respond (.ok r)) := by
  unfold perform at h
  split at h
  case isFalse => cases h
  case isTrue hc =>
    split at h
    case h_1 => cases h
    case h_2 =>
      split at h
      case isFalse => cases h
      case isTrue ho =>
        split at h
        case h_1 => cases h; exact ⟨hc, rfl, ho, .inl ⟨_, rfl, rfl⟩⟩
        case h_2 =>
          split at h
          case isFalse => cases h
          case isTrue hr => cases h; exact ⟨hc, rfl, ho, .inr ⟨_, rfl, hr, rfl⟩⟩

/-- An operation never stops the machine with a fault. -/
theorem perform_ne_fault (f : Fault) : perform q lens out s ≠ .fault f := nomatch f

/-- The outcome of an operation depends on the state through the configuration alone. -/
theorem perform_congr_cfg {s' : State} (h : s.cfg = s'.cfg) :
    perform q lens out s' =
      match perform q lens out s with
      | .next t => .next { cfg := s'.cfg, pending := s'.pending, response := t.response }
      | .fault f => .fault f
      | .refused r => .refused r := by
  obtain ⟨cfg, pend, resp⟩ := s
  obtain ⟨cfg', pend', resp'⟩ := s'
  cases h
  unfold perform
  by_cases hc : configLegal cfg = true
  · cases q with
    | some r => simp [hc]
    | none =>
      by_cases ho : lengthsFit cfg lens = true
      · cases out with
        | error c => simp [hc, ho, State.takeFormatError, State.respond]
        | ok r =>
          by_cases hr : lengthsFit cfg (resultLengths r) = true
          · simp [hc, ho, hr, State.respond]
          · simp [hc, ho, hr]
      · simp [hc, ho]
  · simp [hc]

/-- A rejected request that answers a next state had a reserved code. -/
theorem rejectRequest_next_cases {e : DecodeError} (h : rejectRequest e s = .next t) :
    configLegal s.cfg = true ∧ e = .reservedOp ∧ t = s.takeIllegalOp := by
  unfold rejectRequest at h
  split at h
  case isFalse => cases h
  case isTrue hc => cases e <;> simp_all

/-- Unbounded buffers hold every length. -/
theorem lengthsFit_of_unbounded {cfg : Config} (h : cfg.nmax = none) (lens : List Nat) :
    lengthsFit cfg lens = true := by simp [lengthsFit, h]

/-- Bounded buffers hold exactly the lengths up to the bound. -/
theorem lengthsFit_iff {cfg : Config} {lens : List Nat} :
    lengthsFit cfg lens = true ↔ ∀ m, cfg.nmax = some m → ∀ n ∈ lens, n ≤ m := by
  unfold lengthsFit
  split <;> simp_all

/-- Shorter strings fit where longer ones do. -/
theorem lengthsFit_mono {cfg : Config} {lens lens' : List Nat} (h : lengthsFit cfg lens = true)
    (hle : ∀ n ∈ lens', ∃ k ∈ lens, n ≤ k) : lengthsFit cfg lens' = true := by
  rw [lengthsFit_iff] at *
  intro m hm n hn
  obtain ⟨k, hk, hnk⟩ := hle n hn
  exact Nat.le_trans hnk (h m hm k hk)

end Sys2Proof.Machine
end

