-- ==== Sys2Proof/Laws/PerInstr.lean ====
section
/-!
SUPPORT. Families of statements about every operation as syntax, one lemma per constructor.

OpCode: the encoder gives every operation, whatever its operands, one of the nine codes of 30_encoding.md R56, so the
decoder never takes an encoded operation for a reserved code.
-/

namespace Sys2Proof.Laws.OpCode

/-- The code is one of the nine, and the decoder does not call it reserved. -/
def Statement (i : Instr) : Prop :=
  (encode i).op.toNat < 9 ∧ ∀ cfg, decode cfg (encode i) ≠ .error .reservedOp

/-- A request whose operands are looked at is not rejected as reserved. -/
theorem orIllTyped_ne_reserved (o : Option Instr) : orIllTyped o ≠ .error .reservedOp := by
  cases o <;> simp [orIllTyped]

theorem txt2bits (text : SymString) : Statement (.txt2bits text) :=
  ⟨by simp [encode, opCode], fun _ => orIllTyped_ne_reserved _⟩
theorem henc (data : BitString) : Statement (.henc data) :=
  ⟨by simp [encode, opCode], fun _ => orIllTyped_ne_reserved _⟩
theorem hdec (cwtext : SymString) : Statement (.hdec cwtext) :=
  ⟨by simp [encode, opCode], fun _ => orIllTyped_ne_reserved _⟩
theorem stuff (bits : BitString) : Statement (.stuff bits) :=
  ⟨by simp [encode, opCode], fun _ => orIllTyped_ne_reserved _⟩
theorem destuff (stuffed : BitString) : Statement (.destuff stuffed) :=
  ⟨by simp [encode, opCode], fun _ => orIllTyped_ne_reserved _⟩
theorem build (chan : SymString) (payload : BitString) : Statement (.build chan payload) :=
  ⟨by simp [encode, opCode], fun _ => orIllTyped_ne_reserved _⟩
theorem render (frame : FrameFields) : Statement (.render frame) :=
  ⟨by simp [encode, opCode], fun _ => orIllTyped_ne_reserved _⟩
theorem parse (text : SymString) : Statement (.parse text) :=
  ⟨by simp [encode, opCode], fun _ => orIllTyped_ne_reserved _⟩
theorem corrupt (bits : BitString) (draw : Draw) : Statement (.corrupt bits draw) :=
  ⟨by simp [encode, opCode], fun _ => orIllTyped_ne_reserved _⟩

end Sys2Proof.Laws.OpCode
end

