-- ==== Sys2Proof/Laws/Session.lean ====
section
/-!
SUPPORT. What one request of a host path can do, and the reader of digits in PARSE.
-/

namespace Sys2Proof.Machine

/-- A path goes on with the results of a request that completed. -/
theorem ask_of_ok {α : Type} {i : Instr} {s s' : State} {r : Results} {go : Results → State → Reply α}
    (h : exec i s = .next s') (hr : s'.response = some (.ok r)) : ask i s go = go r s' := by
  simp [ask, h, hr]

/-- A path ends at a request that faulted. -/
theorem ask_of_formatError {α : Type} {i : Instr} {s s' : State} {c : Cause} {go : Results → State → Reply α}
    (h : exec i s = .next s') (hr : s'.response = some (.formatError c)) : ask i s go = .next (s', none) := by
  simp [ask, h, hr]

/-- A path whose request is refused is refused. -/
theorem ask_of_refused {α : Type} {i : Instr} {s : State} {q : Refusal} {go : Results → State → Reply α}
    (h : exec i s = .refused q) : ask i s go = .refused q := by
  simp [ask, h]

/-- `takebits(w)` answers exactly when the text starts with `w` digits. -/
theorem takeBits_eq_some_iff {w : Nat} {t rest : SymString} {bits : BitString} :
    takeBits w t = some (bits, rest) ↔ w ≤ t.length ∧ bitsOf (t.take w) = some bits ∧ rest = t.drop w := by
  unfold takeBits
  split
  case isTrue h =>
    simp only [h, true_and, Option.map_eq_some_iff, Prod.mk.injEq]
    constructor
    · rintro ⟨a, ha, rfl, rfl⟩; exact ⟨ha, rfl⟩
    · rintro ⟨ha, rfl⟩; exact ⟨_, ha, rfl, rfl⟩
  case isFalse h => simp [h]

end Sys2Proof.Machine
end

