-- ==== Sys2Proof/Laws/SourceProperties.lean ====
section
/-!
SUPPORT. The eight properties of 00_scope.md R19 follow from the statements for the provers.
-/

namespace Sys2Proof.Machine.Laws

open Sys2Proof Sys2Proof.Machine

/-- An exact sum does not depend on the order of the events. -/
theorem bytesWritten_reverse (p : Pair) (es : List CounterEvent) : bytesWritten p es.reverse = bytesWritten p es := by
  simp [bytesWritten, List.sum_reverse]

theorem bytesRead_reverse (p : Pair) (es : List CounterEvent) : bytesRead p es.reverse = bytesRead p es := by
  simp [bytesRead, List.sum_reverse]

/-- After a reset that no other follows, the events since the last reset are all of them. -/
theorem sinceReset_of_reset_cons {es : List CounterEvent} (h : CounterEvent.reset ∉ es) :
    sinceReset (.reset :: es) = es.reverse := by
  have hall : ∀ e ∈ es.reverse, (e != CounterEvent.reset) = true := by
    intro e he
    have : e ≠ .reset := fun h' => h (h' ▸ List.mem_reverse.mp he)
    simpa using this
  rw [sinceReset, List.reverse_cons, List.takeWhile_append_of_pos hall]
  simp

/-- On an unbounded, legally configured instance a typed operation with results delivers them. -/
theorem perform_of_unbounded {s : State} (hc : configLegal s.cfg = true) (hn : s.cfg.nmax = none) (lens : List Nat)
    (r : Results) : perform none lens (.ok r) s = .next (s.respond (.ok r)) :=
  perform_ok hc (lengthsFit_of_unbounded hn _) (lengthsFit_of_unbounded hn _)

/-- What HDEC's function decodes, HDEC answers. -/
theorem answers_hdec {text : SymString} {r : Results} (h : hdec text = .ok r) : Answers (.hdec text) (.ok r) := by
  intro s hc hn
  show perform none _ (hdec text) s = _
  rw [h]
  exact perform_of_unbounded hc hn _ r

/-- STUFF answers what its scan gives. -/
theorem answers_stuff (x : BitString) : Answers (.stuff x) (.ok (.stuff (stuffScan x).out (stuffScan x).last)) :=
  fun _ hc hn => perform_of_unbounded hc hn _ _

/-- DESTUFF answers what its scan gives. -/
theorem answers_destuff (y : BitString) : Answers (.destuff y) (.ok (.destuff (destuff y))) :=
  fun _ hc hn => perform_of_unbounded hc hn _ _

/-- Property 8 from the statement about any list of events. -/
theorem counters_after_reset (h : Obligations.ByteCountersAreExactSums) (es : List CounterEvent) (c : Counters)
    (p : Pair) (hes : CounterEvent.reset ∉ es) :
    (es.foldl Counters.apply (c.apply .reset)).tx p = bytesWritten p es ∧
    (es.foldl Counters.apply (c.apply .reset)).rx p = bytesRead p es := by
  have := h (.reset :: es) c p
  simpa [sinceReset_of_reset_cons hes, bytesWritten_reverse, bytesRead_reverse] using this

/-- 00_scope.md R19: the statements for the provers give the source's eight properties. -/
theorem sourceProperties_of_obligations
    (h1 : Obligations.FreshCodewordDecodesClean) (h2 : Obligations.EverySingleErrorIsCorrected)
    (h3 : Obligations.DestuffInvertsStuff) (h4 : Obligations.StuffedStringsHoldNoSixOnes)
    (h5 : Obligations.PropertyFiveElevenFlips) (h6 : Obligations.PropertySixTwoMarkers)
    (h7 : Obligations.CorruptIsReproducible) (h8 : Obligations.ByteCountersAreExactSums) : SourceProperties where
  property1 d hd s hc hn := (h1 d s hc (lengthsFit_of_unbounded hn _)).1 hd
  property2 d p _ h1p hp s hc hn := h2 d p s hc (lengthsFit_of_unbounded hn _) h1p hp
  property3 x s hc hn := h3 x _ _ s _ s (answers_stuff x s hc hn) rfl rfl
  property4 := h4
  property5 := by
    obtain ⟨hcw, hr, hflips⟩ := h5
    refine ⟨hr, by rw [hcw]; rfl, fun p h1p hp => ⟨p, answers_hdec (hflips p ?_)⟩⟩
    simp only [List.mem_cons, List.not_mem_nil, or_false]
    omega
  property6 := by
    obtain ⟨hout, hlast, -, hback⟩ := h6
    have hs := answers_stuff [true, true, true, true, true, false, true, true, true, true, true, false]
    have hd := answers_destuff
      [true, true, true, true, true, false, false, true, true, true, true, true, false, false]
    rw [hout, hlast] at hs
    rw [hback] at hd
    exact ⟨hs, hd⟩
  property7 source seed bits s s' t t' := h7 bits (source seed) s s' t t'
  property8 es c p hes := counters_after_reset h8 es c p hes

end Sys2Proof.Machine.Laws
end

