-- ==== Sys2Proof/Tests/Slice0.lean ====
section
/-!
SUPPORT. Small tests of one operation each, their expected results taken from spec/95_test_vectors.md and the worked
examples of the rules; requests written out from spec/30_encoding.md; the WellFormed smoke test; and a witness for the
hypotheses of every statement that has some.
-/

namespace Sys2Proof.Tests

open Machine

/-- The bit string of a string of digits (30_encoding.md R68). -/
def b (s : String) : BitString := s.toList.map fun c => c == '1'

/-- The symbol string of an ASCII string. -/
def t (s : String) : SymString := s.toList.map fun c => BitVec.ofNat 8 c.toNat

/-- The next state of an outcome. -/
def nextOf {α : Type} : Host.Outcome α Fault Refusal → Option α
  | .next s => some s
  | .fault _ => none
  | .refused _ => none

/-- The refusal of an outcome. -/
def refusalOf {α : Type} : Host.Outcome α Fault Refusal → Option Refusal
  | .next _ => none
  | .fault _ => none
  | .refused r => some r

theorem next_of {α : Type} {o : Host.Outcome α Fault Refusal} {s : α} (h : nextOf o = some s) : o = .next s := by
  cases o with
  | next a => cases h; rfl
  | fault f => cases f
  | refused r => cases h

/-- The response an operation gives from reset (GID = 21, L = 16). -/
def responseOf (i : Instr) : Option Response := (nextOf (exec i State.reset)).bind State.response

/-- A small instance: GID = 21, L = 1, so NL = 3. -/
def small : State := State.resetWith (Config.withDefaults 21 1)

/-- The small instance after a response. -/
def smallAfter (r : Response) : State := small.respond r

/-- The frame of 43_frame.md R125's worked example. -/
def exampleFrame : FrameFields :=
  { flag := b "00010101", dest := b "0000", src := b "0011", data := b "0100000100000000",
    fcs := b "100010010001000000000" }

/-- A frame of the small instance, its fcs the codeword of its data. -/
def smallFrame : FrameFields :=
  { flag := b "00010101", dest := b "0000", src := b "0011", data := b "1", fcs := b "111" }

/-- Its line. -/
def smallLine : SymString := t "Flag: 00010101, Dest Addr: 0000, Source Addr: 0011, Data: 1, FCS: 111"

/-! ## Requests written out from 30_encoding.md R56 and R57, one per format -/

theorem test_decode_txt2bits :
    decode Config.ofExamples { op := 0b0000, items := [2, 72, 105] } = .ok (.txt2bits (t "Hi")) := by rfl
theorem test_decode_henc :
    decode Config.ofExamples { op := 0b0001, items := [7, 1, 0, 1, 1, 0, 0, 1] } = .ok (.henc (b "1011001")) := by rfl
theorem test_decode_hdec :
    decode Config.ofExamples { op := 0b0010, items := [3, 48, 49, 50] } = .ok (.hdec (t "012")) := by rfl
theorem test_decode_stuff :
    decode Config.ofExamples { op := 0b0011, items := [0] } = .ok (.stuff []) := by rfl
theorem test_decode_destuff :
    decode Config.ofExamples { op := 0b0100, items := [2, 1, 0] } = .ok (.destuff (b "10")) := by rfl
theorem test_decode_build :
    decode Config.ofExamples { op := 0b0101, items := [3, 67, 72, 51, 1, 1] } = .ok (.build (t "CH3") (b "1")) := by rfl
theorem test_decode_render :
    decode (Config.withDefaults 21 1)
      { op := 0b0110, items := [0, 0, 0, 1, 0, 1, 0, 1, 0, 0, 0, 0, 0, 0, 1, 1, 1, 1, 1, 1] } =
      .ok (.render smallFrame) := by rfl
theorem test_decode_parse :
    decode Config.ofExamples { op := 0b0111, items := [1, 10] } = .ok (.parse (t "\n")) := by rfl
theorem test_decode_corrupt :
    decode Config.ofExamples { op := 0b1000, items := [3, 1, 0, 1, 1, 2, 0, 9, 9] } =
      .ok (.corrupt (b "101") { e1 := true, k1 := 2, e2 := false, ka := 9, kb := 9 }) := by rfl
theorem test_decode_reserved :
    decode Config.ofExamples { op := 0b1001, items := [0] } = .error .reservedOp := by rfl
theorem test_decode_refuses_a_left_over_number :
    decode Config.ofExamples { op := 0b0001, items := [1, 1, 0] } = .error .illTyped := by rfl
theorem test_decode_refuses_a_bit_of_two :
    decode Config.ofExamples { op := 0b0001, items := [1, 2] } = .error .illTyped := by rfl
theorem test_decode_refuses_a_wide_symbol :
    decode Config.ofExamples { op := 0b0000, items := [1, 256] } = .error .illTyped := by rfl
theorem test_table_words_decode :
    (List.range 17).map (fun w => (decodeTableWord 8 w).isSome) =
      List.replicate 9 true ++ List.replicate 8 false := by decide +kernel
theorem test_table_words_run_first :
    ∀ w ∈ List.range 9, (nextOf (step (State.reset.withFetchWord 8 w))).isSome = true := by decide +kernel

/-! ## WellFormed smoke: one ill-formed term for each check -/

theorem smoke_flag_length :
    Instr.wellFormed Config.ofExamples (.render { exampleFrame with flag := b "0001010" }) = false := by decide
theorem smoke_dest_length :
    Instr.wellFormed Config.ofExamples (.render { exampleFrame with dest := b "00000" }) = false := by decide
theorem smoke_src_length :
    Instr.wellFormed Config.ofExamples (.render { exampleFrame with src := [] }) = false := by decide
theorem smoke_data_length :
    Instr.wellFormed Config.ofExamples (.render { exampleFrame with data := b "1" }) = false := by decide
theorem smoke_fcs_length :
    Instr.wellFormed Config.ofExamples (.render { exampleFrame with fcs := b "1" }) = false := by decide
theorem smoke_frame_accepted : Instr.wellFormed Config.ofExamples (.render exampleFrame) = true := by decide
theorem smoke_single_index :
    Instr.wellFormed Config.ofExamples (.corrupt (b "101") { e1 := true, k1 := 3, e2 := false, ka := 0, kb := 0 }) =
      false := by decide
theorem smoke_pair_equal :
    Instr.wellFormed Config.ofExamples (.corrupt (b "101") { e1 := false, k1 := 0, e2 := true, ka := 1, kb := 1 }) =
      false := by decide
theorem smoke_pair_first_index :
    Instr.wellFormed Config.ofExamples (.corrupt (b "101") { e1 := false, k1 := 0, e2 := true, ka := 3, kb := 1 }) =
      false := by decide
theorem smoke_pair_second_index :
    Instr.wellFormed Config.ofExamples (.corrupt (b "101") { e1 := false, k1 := 0, e2 := true, ka := 1, kb := 3 }) =
      false := by decide
theorem smoke_ignored_fields :
    Instr.wellFormed Config.ofExamples (.corrupt (b "1") { e1 := false, k1 := 7, e2 := true, ka := 7, kb := 7 }) =
      true := by decide

/-! ## One operation each, 95_test_vectors.md section 2 -/

theorem test_labels :
    labelFlag = t "Flag: " ∧ labelDest = t ", Dest Addr: " ∧ labelSrc = t ", Source Addr: " ∧
    labelData = t ", Data: " ∧ labelFcs = t ", FCS: " := by decide

/-- 2.1, rows `0A1` and `Hi`. -/
theorem test_txt2bits :
    responseOf (.txt2bits (t "0A1")) = some (.ok (.txt2bits (b "0010000011"))) ∧
    responseOf (.txt2bits (t "Hi")) = some (.ok (.txt2bits (b "0100100001101001"))) := by decide

/-- 2.1, not injective (40_bitvector.md R78). -/
theorem test_txt2bits_not_injective :
    responseOf (.txt2bits (t "A")) = responseOf (.txt2bits (t "01000001")) := by decide

/-- 2.2, lengths 7 and 16. -/
theorem test_henc :
    responseOf (.henc (b "1011001")) = some (.ok (.henc (b "10100111001"))) ∧
    responseOf (.henc (b "1111111111000000")) = some (.ok (.henc (b "001011101111110000000"))) := by decide +kernel

/-- 2.2, the empty data and one bit. -/
theorem test_henc_short :
    responseOf (.henc []) = some (.ok (.henc [])) ∧ responseOf (.henc (b "1")) = some (.ok (.henc (b "111"))) := by
  decide

/-- 2.2, a corrected bit, a syndrome beyond the length, a length HENC never produces, three errors with syndrome 0. -/
theorem test_hdec :
    responseOf (.hdec (t "10100011001")) = some (.ok (.hdec (b "1011001") 6)) ∧
    responseOf (.hdec (t "1010011100")) = some (.ok (.hdec (b "101100") 11)) ∧
    responseOf (.hdec (t "0010")) = some (.ok (.hdec (b "0") 3)) ∧
    responseOf (.hdec (t "01000111001")) = some (.ok (.hdec (b "0011001") 0)) := by decide +kernel

/-- 2.2, validation. -/
theorem test_hdec_faults :
    responseOf (.hdec []) = some (.formatError .emptyCodeword) ∧
    responseOf (.hdec (t "1 1")) = some (.formatError .nonbinaryCodeword) := by decide

/-- 2.3, three markers, and a marker after the last bit. -/
theorem test_stuff :
    responseOf (.stuff (b "1111111111111111")) = some (.ok (.stuff (b "1111101111101111101") (some 17))) ∧
    responseOf (.stuff (b "11111")) = some (.ok (.stuff (b "111110") (some 5))) := by decide

/-- 2.3, a 0 resets the counter. -/
theorem test_stuff_reset : responseOf (.stuff (b "111101111")) = some (.ok (.stuff (b "111101111") none)) := by decide

/-- 2.3, 13 ones: the sixth and twelfth are dropped; five at the end drop nothing. -/
theorem test_destuff :
    responseOf (.destuff (b "1111111111111")) = some (.ok (.destuff (b "11111111111"))) ∧
    responseOf (.destuff (b "11111")) = some (.ok (.destuff (b "11111"))) := by decide

/-- 2.4, the first row. -/
theorem test_build : responseOf (.build (t "CH3") (b "01000001")) = some (.ok (.build exampleFrame)) := by
  decide +kernel

/-- 2.4, the address is checked first; 17 bits do not fit. -/
theorem test_build_faults :
    responseOf (.build (t "CHx") (List.replicate 17 false)) = some (.formatError .addrSuffix) ∧
    responseOf (.build (t "CH3") (List.replicate 17 false)) = some (.formatError .payloadTooLong) ∧
    responseOf (.build [] []) = some (.formatError .addrSuffix) := by decide +kernel

/-- 2.4, the row with two markers, the second bracketed. -/
theorem test_render :
    responseOf (.render { exampleFrame with src := b "1001", data := b "1111111111000000", fcs := b "001011101111110000000" })
      = some (.ok (.render (t "Flag: 00010101, Dest Addr: 0000, Source Addr: 1001, Data: 11111011111[0]000000, FCS: 001011101111110000000"))) := by
  decide +kernel

/-- 2.4, the first row with one line feed; a bracket is accepted anywhere. -/
theorem test_parse :
    responseOf (.parse (t "Flag: 00010101, Dest Addr: 0000, Source Addr: 0011, Data: 010000010000000[0], FCS: 100010010001000000000\n"))
      = some (.ok (.parse exampleFrame)) := by decide +kernel

/-- 2.4, two line feeds, and 16 digits of which one is dropped. -/
theorem test_parse_faults :
    responseOf (.parse (t "Flag: 00010101, Dest Addr: 0000, Source Addr: 0011, Data: 0100000100000000, FCS: 100010010001000000000\n\n"))
      = some (.formatError .wireText) ∧
    responseOf (.parse (t "Flag: 00010101, Dest Addr: 0000, Source Addr: 0011, Data: 0111111100000000, FCS: 100010010001000000000"))
      = some (.formatError .wireText) := by decide +kernel

/-- 2.5, three flips, and a cancelled first flip. -/
theorem test_corrupt :
    responseOf (.corrupt (b "10100111001") { e1 := true, k1 := 0, e2 := true, ka := 2, kb := 4 }) =
      some (.ok (.corrupt (b "00001111001"))) ∧
    responseOf (.corrupt (b "10100111001") { e1 := true, k1 := 4, e2 := true, ka := 2, kb := 4 }) =
      some (.ok (.corrupt (b "10000111001"))) := by decide

/-- 2.5, length 1: the double flip is ignored; refused draws. -/
theorem test_corrupt_edges :
    responseOf (.corrupt (b "1") { e1 := true, k1 := 0, e2 := true, ka := 9, kb := 9 }) =
      some (.ok (.corrupt (b "0"))) ∧
    refusalOf (exec (.corrupt (b "101") { e1 := true, k1 := 3, e2 := false, ka := 0, kb := 0 }) State.reset) =
      some .inadmissibleDraw := by decide

/-- 2.6, a reserved code. -/
theorem test_reserved :
    ((nextOf (step (State.reset.present { op := 0b1111, items := [] }))).bind State.response).map Response.status =
      some 15 := by decide

/-- Program P1's line. -/
theorem test_txline :
    (nextOf (txline (t "CH3") (t "Hi") State.reset)).map Prod.snd =
      some (some (t "Flag: 00010101, Dest Addr: 0000, Source Addr: 0011, Data: 0100100001101001, FCS: 010010011000011001001\n")) := by
  decide +kernel

/-- R157 and 91_not_in_source.md N8: a line without symbols is ignored by every host; a lone line feed is ignored by a host
whose test sees it as empty, and malformed, hence skipped, for one whose test does not. -/
theorem test_receive_empty_line (h : Bool) :
    let ss : Session := { block := small, counters := ⟨1, 2, 3, 4⟩ }
    receiveLine h .a [] 0 true ss = .next (ss, none) ∧ receiveLine true .a [symLF] 1 true ss = .next (ss, none) ∧
    receiveLine false .a [symLF] 1 false ss =
      .next ({ ss with block := small.respond (.formatError .wireText) }, none) :=
  ⟨next_of (by cases h <;> decide), next_of (by decide), next_of (by decide)⟩

/-- Program P3's receiving end: two errors, silently miscorrected. -/
theorem test_rxline :
    (nextOf (rxline (t "Flag: 00010101, Dest Addr: 0000, Source Addr: 0011, Data: 0100100001101001, FCS: 011000011000011001001\n") State.reset)).map Prod.snd =
      some (some (b "1010100001101001", 6)) := by decide +kernel

end Sys2Proof.Tests
end

