-- ==== Sys2Proof/Tests/Witnesses.lean ====
section
/-!
SUPPORT. For every statement of Certificates/Slice0/Obligations.lean that has hypotheses, a concrete state and operands
that meet all of them together, one witness per clause, at boundary values where a clause has a range.
-/

namespace Sys2Proof.Tests

open Machine

theorem refused_of {α : Type} {o : Host.Outcome α Fault Refusal} {r : Refusal} (h : refusalOf o = some r) :
    o = .refused r := by
  cases o with
  | next a => cases h
  | fault f => cases f
  | refused q => cases h; rfl

/-- The small instance with one request presented. -/
def smallWith (r : Request) : State := small.present r

/-- The small instance with buffers of 12 symbols. -/
def bounded : State := State.resetWith { Config.withDefaults 21 1 with nmax := some 12 }

/-- An instance with an illegal data length. -/
def illegal : State := (State.resetWith (Config.withDefaults 21 0)).present { op := 1, items := [0] }

theorem witness_DecodeOfEncodeIsTheOperation :
    Instr.wellFormed Config.ofExamples (.render exampleFrame) = true ∧
    Instr.wellFormed Config.ofExamples (.corrupt (b "10") { e1 := true, k1 := 1, e2 := true, ka := 0, kb := 1 }) =
      true := by decide

theorem witness_EncodeOfDecodeIsTheRequest :
    decode (Config.withDefaults 21 1) (encode (.render smallFrame)) = .ok (.render smallFrame) := by rfl

theorem witness_ReservedCodeGetsStatusFifteen :
    (smallWith { op := 9, items := [5] }).pending = { op := 9, items := [5] } :: [] ∧
    configLegal small.cfg = true ∧ 9 ≤ (9 : BitVec 4).toNat ∧ 9 ≤ (15 : BitVec 4).toNat := by decide

theorem witness_NineCodesSelectAndSevenAreReserved :
    (8 : BitVec 4).toNat < 9 ∧ 9 ≤ (9 : BitVec 4).toNat := by decide

theorem witness_StepRunsTheDecodedOperation :
    (smallWith (encode (.henc [true]))).pending = encode (.henc [true]) :: [] ∧
    decode small.cfg (encode (.henc [true])) = .ok (.henc [true]) := ⟨by decide, by rfl⟩

theorem witness_RequestsArePerformedInOrder :
    ((smallWith (encode (.henc [true]))).pending ≠ [] ∧
      step (smallWith (encode (.henc [true]))) = .next (smallAfter (.ok (.henc (b "111"))))) ∧
    (small.pending = [] ∧ Instr.wellFormed small.cfg (.stuff []) = true) :=
  ⟨⟨by decide, next_of (by decide)⟩, by decide⟩

theorem witness_IdleStepChangesNoRegister : small.pending = [] := rfl

theorem witness_IllTypedRequestIsRefused :
    ((smallWith { op := 1, items := [1, 2] }).pending = { op := 1, items := [1, 2] } :: [] ∧
      configLegal small.cfg = true ∧ decode small.cfg { op := 1, items := [1, 2] } = .error .illTyped) ∧
    (configLegal small.cfg = true ∧ exampleFrame.data.length ≠ small.cfg.l ∧
      { smallFrame with flag := b "0010101" }.flag.length ≠ 8 ∧ { smallFrame with dest := b "00000" }.dest.length ≠ 4 ∧
      { smallFrame with src := b "011" }.src.length ≠ 4 ∧ { smallFrame with data := [] }.data.length ≠ small.cfg.l ∧
      { smallFrame with fcs := b "11" }.fcs.length ≠ small.cfg.l + parityCount small.cfg.l) :=
  ⟨⟨by decide, by decide, by rfl⟩, by decide⟩

/-- Also the hypotheses of CorruptIsReproducible, OutcomeDependsOnOperandsAndConfiguration (with the refusal below),
ResetBetweenOperationsIsUnobservable and, for HENC, OnlyBuildAndParseReadTheConfiguration and SixOperationsNeverFault. -/
theorem witness_OperationsChangeOnlyTheResponse :
    exec (.henc [true]) small = .next (smallAfter (.ok (.henc (b "111")))) := next_of (by decide)

theorem witness_StepsNeverWriteTheConfiguration :
    step (smallWith (encode (.henc [true]))) = .next (smallAfter (.ok (.henc (b "111")))) := next_of (by decide)

theorem witness_OutcomeDependsOnOperandsAndConfiguration :
    small.cfg = (smallWith (encode (.henc [true]))).cfg ∧
    exec (.henc [true]) small = .next (smallAfter (.ok (.henc (b "111")))) ∧
    exec (.render exampleFrame) small = .refused .illTypedFrame :=
  ⟨rfl, next_of (by decide), rfl⟩

theorem witness_OnlyBuildAndParseReadTheConfiguration :
    (∀ chan payload, Instr.stuff [true] ≠ .build chan payload) ∧ (∀ text, Instr.stuff [true] ≠ .parse text) ∧
    exec (.stuff [true]) small = .next (smallAfter (.ok (.stuff [true] none))) ∧
    exec (.stuff [true]) State.reset = .next (State.reset.respond (.ok (.stuff [true] none))) :=
  ⟨by simp, by simp, next_of (by decide), next_of (by decide)⟩

theorem witness_EveryStepKeepsTheInvariant :
    Inv (smallWith (encode (.henc [true]))) ∧
    step (smallWith (encode (.henc [true]))) = .next (smallAfter (.ok (.henc (b "111")))) := by
  refine ⟨⟨by decide, ?_⟩, next_of (by decide)⟩
  intro r h; cases h

/-- The invariant with a response in the port. -/
theorem witness_Inv_with_a_frame : Inv (smallAfter (.ok (.build smallFrame))) := by
  refine ⟨by decide, ?_⟩
  intro r h
  cases h
  exact ⟨by refine ⟨?_, ?_, ?_, ?_, ?_⟩ <;> decide, by decide⟩

theorem witness_InvariantHoldsAtReset : configLegal (Config.withDefaults 255 1) = true := by decide

theorem witness_ResetBetweenOperationsIsUnobservable :
    exec (.destuff [true]) (smallAfter .illegalOp) = .next (smallAfter (.ok (.destuff [true]))) := next_of (by decide)

theorem witness_IllegalConfigurationRefusesEverything :
    configLegal illegal.cfg = false ∧ illegal.pending = { op := 1, items := [0] } :: [] := by decide

theorem witness_OverlongStringsAreRefused :
    (configLegal bounded.cfg = true ∧ Instr.wellFormed bounded.cfg (.stuff (List.replicate 13 false)) = true ∧
      lengthsFit bounded.cfg (operandLengths (.stuff (List.replicate 13 false))) = false) ∧
    (exec (.henc (List.replicate 8 false)) bounded =
        .next (bounded.respond (.ok (.henc (List.replicate 12 false)))) ∧
      bounded.cfg.nmax = some 12 ∧ 12 ∈ resultLengths (.henc (List.replicate 12 false))) ∧
    (Instr.wellFormed bounded.cfg (.henc (List.replicate 9 false)) = true ∧
      exec (.henc (List.replicate 9 false)) bounded = .refused .capacityExceeded) :=
  ⟨by decide, ⟨next_of (by decide +kernel), by decide, by decide⟩, by decide, refused_of (by decide +kernel)⟩

theorem witness_EveryWellFormedOperationIsAnswered :
    configLegal small.cfg = true ∧ small.cfg.nmax = none ∧
    Instr.wellFormed small.cfg (.render smallFrame) = true := by decide

theorem witness_SixOperationsNeverFault :
    (∀ text, Instr.txt2bits [] ≠ .hdec text) ∧ (∀ chan payload, Instr.txt2bits [] ≠ .build chan payload) ∧
    (∀ text, Instr.txt2bits [] ≠ .parse text) ∧
    exec (.txt2bits []) small = .next (smallAfter (.ok (.txt2bits []))) :=
  ⟨by simp, by simp, by simp, next_of (by decide)⟩

theorem witness_OperatorsMeetTheirDefinitions : (1 : Nat) ≤ 1 ∧ 255 < 2 ^ 8 := by decide

/-- Operand `0A1` gives ten bits, within the bound of 12. -/
theorem witness_Txt2bitsExpandsEverySymbol :
    configLegal bounded.cfg = true ∧ lengthsFit bounded.cfg [(t "0A1").length] = true ∧
    lengthsFit bounded.cfg
      [(t "0A1").countP (fun c => c == 0x30 || c == 0x31) +
        8 * ((t "0A1").length - (t "0A1").countP (fun c => c == 0x30 || c == 0x31))] = true := by decide

theorem witness_ParityCountIsMinimal : 2 < parityCount 4 ∧ 2 ≤ 3 ∧ parityCount 4 = 3 := by decide

theorem witness_CodewordGeometry : (1 : Nat) ≤ 1 := by decide

theorem witness_DataPositionsAreTheNonPowersInOrder : dpos 3 < 8 ∧ 8 < dpos 4 := by decide

theorem witness_HencPlacesDataAndParity :
    configLegal bounded.cfg = true ∧ lengthsFit bounded.cfg [(b "11111111").length] = true ∧
    lengthsFit bounded.cfg [(b "11111111").length + parityCount (b "11111111").length] = true := by decide

theorem witness_HencIsLinear : (b "101").length = (b "011").length := by decide

theorem witness_HdecFaultsAreTheTwo :
    configLegal small.cfg = true ∧ lengthsFit small.cfg [(t "1 1").length] = true ∧
    (t "1 1" ≠ [] ∧ ∃ c ∈ t "1 1", c ≠ 0x30 ∧ c ≠ 0x31) ∧
    (t "1" ≠ [] ∧ ∀ c ∈ t "1", c = 0x30 ∨ c = 0x31) := by decide

theorem witness_HdecFollowsTheSyndrome :
    configLegal bounded.cfg = true ∧ lengthsFit bounded.cfg [(b "1").length] = true ∧ b "1" ≠ [] ∧
    lengthsFit bounded.cfg [(b "101001110010").length] = true := by decide

theorem witness_FreshCodewordDecodesClean :
    configLegal bounded.cfg = true ∧ lengthsFit bounded.cfg [(b "1").length + parityCount (b "1").length] = true ∧
    b "1" ≠ [] ∧ lengthsFit bounded.cfg [([] : BitString).length + parityCount ([] : BitString).length] = true := by
  decide

/-- Both ends of the range of positions of an eight-bit word's codeword. -/
theorem witness_EverySingleErrorIsCorrected :
    configLegal bounded.cfg = true ∧
    lengthsFit bounded.cfg [(b "10101010").length + parityCount (b "10101010").length] = true ∧
    1 ≤ 1 ∧ 12 ≤ (b "10101010").length + parityCount (b "10101010").length := by decide

theorem witness_SyndromeIsTheXorOfErrorPositions :
    b "1" ≠ [] ∧ configLegal small.cfg = true ∧
    lengthsFit small.cfg [(b "1").length + parityCount (b "1").length] = true ∧
    ∀ p ∈ [1, 2, 3], 1 ≤ p ∧ p ≤ (b "1").length + parityCount (b "1").length := by decide

/-- A pair whose syndrome is a position, and one whose syndrome (7 xor 8 = 15) is beyond the length 11. -/
theorem witness_TwoErrorsAreSilentlyMiscorrected :
    configLegal small.cfg = true ∧
    lengthsFit small.cfg [(b "1011001").length + parityCount (b "1011001").length] = true ∧
    (1 ≤ 3 ∧ 3 < 5 ∧ 5 ≤ (b "1011001").length + parityCount (b "1011001").length) ∧
    (1 ≤ 7 ∧ 7 < 8 ∧ 8 ≤ (b "1011001").length + parityCount (b "1011001").length) ∧ 7 ^^^ 8 = 15 := by decide

/-- Ten 1s give two markers: twelve bits, the bound. -/
theorem witness_StuffInsertsAfterEveryFifthOne :
    configLegal bounded.cfg = true ∧ lengthsFit bounded.cfg [(b "1111111111").length] = true ∧
    lengthsFit bounded.cfg [(b "1111111111").length + (markerSites (b "1111111111")).length] = true ∧
    (markerSites (b "1111111111")).getLast?.map (fun a => a + 2) = some 11 := by decide

theorem witness_DestuffDropsTheBitAfterFiveOnes :
    configLegal bounded.cfg = true ∧ lengthsFit bounded.cfg [(b "111111").length] = true := by decide

theorem witness_DestuffInvertsStuff :
    exec (.stuff (b "11111")) small = .next (smallAfter (.ok (.stuff (b "111110") (some 5)))) ∧
    (smallAfter (.ok (.stuff (b "111110") (some 5)))).response = some (.ok (.stuff (b "111110") (some 5))) ∧
    (smallAfter .illegalOp).cfg = small.cfg :=
  ⟨next_of (by decide), rfl, rfl⟩

theorem witness_StuffedStringsHoldNoSixOnes :
    ((stuffScan (b "011111")).out.drop 1).take 5 = [true, true, true, true, true] := by decide

/-- A last symbol just outside the digits on either side, no last symbol, and the two digits at the ends. -/
theorem witness_BuildChecksTheSuffixFirst :
    configLegal small.cfg = true ∧ lengthsFit small.cfg [([] : SymString).length, (b "11").length] = true ∧
    (∀ c, (t "3/").getLast? = some c → c.toNat < 0x30 ∨ 0x39 < c.toNat) ∧
    (∀ c, (t "3:").getLast? = some c → c.toNat < 0x30 ∨ 0x39 < c.toNat) ∧
    (∀ c, ([] : SymString).getLast? = some c → c.toNat < 0x30 ∨ 0x39 < c.toNat) ∧
    ((∃ c, (t "x0").getLast? = some c ∧ 0x30 ≤ c.toNat ∧ c.toNat ≤ 0x39) ∧ small.cfg.l < (b "11").length) := by
  refine ⟨by decide, by decide, ?_, ?_, ?_, ⟨0x30, by decide, by decide, by decide⟩, by decide⟩
  · intro c h
    have e : c = 0x2F := by
      have h' : (t "3/").getLast? = some 0x2F := by decide
      rw [h'] at h; exact (Option.some.inj h).symm
    subst e; decide
  · intro c h
    have e : c = 0x3A := by
      have h' : (t "3:").getLast? = some 0x3A := by decide
      rw [h'] at h; exact (Option.some.inj h).symm
    subst e; decide
  · intro c h; simp at h

/-- The digit 9 and a payload of exactly `L` bits; the digit 0 and the empty payload. -/
theorem witness_BuildMakesTheFrame :
    configLegal bounded.cfg = true ∧ lengthsFit bounded.cfg [(t "CH9").length, (b "1").length] = true ∧
    lengthsFit bounded.cfg [8, 4, bounded.cfg.l, bounded.cfg.l + parityCount bounded.cfg.l] = true ∧
    (t "CH9").getLast? = some 0x39 ∧ (t "0").getLast? = some 0x30 ∧ 0x30 ≤ (0x30 : Sym).toNat ∧
    (0x39 : Sym).toNat ≤ 0x39 ∧ (b "1").length ≤ bounded.cfg.l ∧ ([] : BitString).length ≤ bounded.cfg.l := by decide

/-- The last index of the fcs of the small frame is 2. -/
theorem witness_BuiltFrameSurvivesOneError :
    exec (.build (t "CH3") (b "1")) small = .next (smallAfter (.ok (.build smallFrame))) ∧
    (smallAfter (.ok (.build smallFrame))).response = some (.ok (.build smallFrame)) ∧
    2 < smallFrame.fcs.length :=
  ⟨next_of (by decide), rfl, by decide⟩

/-- A frame without markers, and one with two. -/
theorem witness_RenderWritesOneLine :
    configLegal State.reset.cfg = true ∧ frameTyped State.reset.cfg exampleFrame = true ∧
    lengthsFit State.reset.cfg [exampleFrame.flag.length, exampleFrame.dest.length, exampleFrame.src.length,
      exampleFrame.data.length, exampleFrame.fcs.length] = true ∧
    lengthsFit State.reset.cfg [lineLength State.reset.cfg (markerSites exampleFrame.data).length] = true ∧
    markerSites exampleFrame.data = [] ∧ (markerSites (b "1111111111000000")).getLast? = some 9 ∧
    lineLength State.reset.cfg 2 = 106 := by decide

theorem witness_ParseAcceptsExactlyTheGrammar :
    configLegal small.cfg = true ∧ lengthsFit small.cfg [smallLine.length] = true ∧
    WireLine small.cfg smallLine smallFrame ∧ ∀ f, ¬ WireLine small.cfg [] f := by
  refine ⟨by decide, by decide, ⟨by decide, txt (b "1"), b "1", .inl rfl, by decide, .inl (by decide)⟩, ?_⟩
  rintro f ⟨-, raw, st, -, -, h | h⟩ <;> simp [lineText, labelFlag] at h

theorem witness_ParseInvertsRender :
    exec (.render smallFrame) small = .next (smallAfter (.ok (.render smallLine))) ∧
    (smallAfter (.ok (.render smallLine))).response = some (.ok (.render smallLine)) ∧
    lengthsFit small.cfg [smallLine.length + 1] = true :=
  ⟨next_of (by decide), rfl, by decide⟩

/-- Lengths 0, 1 and 2, the last index of each. -/
theorem witness_CorruptXorsTheMask :
    configLegal small.cfg = true ∧
    (∀ n ∈ [0, 1], lengthsFit small.cfg [n] = true ∧
      (∀ d ∈ [({ e1 := true, k1 := 0, e2 := true, ka := 5, kb := 5 } : Draw)],
        (d.e1 = true → 1 ≤ n → d.k1 < n) ∧ (d.e2 = true → 2 ≤ n → d.ka < n ∧ d.kb < n ∧ d.ka ≠ d.kb))) ∧
    (∀ d ∈ [({ e1 := true, k1 := 1, e2 := true, ka := 0, kb := 1 } : Draw)],
        (d.e1 = true → 1 ≤ 2 → d.k1 < 2) ∧ (d.e2 = true → 2 ≤ 2 → d.ka < 2 ∧ d.kb < 2 ∧ d.ka ≠ d.kb)) := by
  decide

theorem witness_CorruptFlipsZeroToThreeBits :
    2 ≤ (b "10").length ∧
    drawAdmissible (b "10").length { e1 := true, k1 := 1, e2 := true, ka := 0, kb := 1 } = true := by decide

/-- Event 1 with an index equal to the least length that has one; event 2 at the least length that has a pair, with either
index equal to the length, and with equal indices; and a refusal for the other direction. -/
theorem witness_InadmissibleDrawIsRefused :
    configLegal small.cfg = true ∧
    (∀ d ∈ [({ e1 := true, k1 := 1, e2 := false, ka := 0, kb := 0 } : Draw)],
      d.e1 = true ∧ 1 ≤ (b "1").length ∧ (b "1").length ≤ d.k1) ∧
    (∀ d ∈ [({ e1 := false, k1 := 0, e2 := true, ka := 2, kb := 0 } : Draw),
        { e1 := false, k1 := 0, e2 := true, ka := 0, kb := 2 }, { e1 := false, k1 := 0, e2 := true, ka := 1, kb := 1 }],
      d.e2 = true ∧ 2 ≤ (b "10").length ∧ ((b "10").length ≤ d.ka ∨ (b "10").length ≤ d.kb ∨ d.ka = d.kb)) ∧
    exec (.corrupt (b "1") { e1 := true, k1 := 1, e2 := false, ka := 0, kb := 0 }) small =
      .refused .inadmissibleDraw :=
  ⟨by decide, by decide, by decide, refused_of (by decide)⟩

theorem witness_CorruptIsReproducible :
    exec (.corrupt (b "1") { e1 := true, k1 := 0, e2 := false, ka := 0, kb := 0 }) small =
      .next (smallAfter (.ok (.corrupt (b "0")))) ∧
    exec (.corrupt (b "1") { e1 := true, k1 := 0, e2 := false, ka := 0, kb := 0 }) State.reset =
      .next (State.reset.respond (.ok (.corrupt (b "0")))) := ⟨next_of (by decide), next_of (by decide)⟩

theorem witness_AtMostOneChannelErrorIsUndone :
    b "1" ≠ [] ∧
    exec (.corrupt (henc (b "1")) { e1 := true, k1 := 2, e2 := true, ka := 0, kb := 2 }) small =
      .next (smallAfter (.ok (.corrupt (b "011")))) ∧
    (smallAfter (.ok (.corrupt (b "011")))).response = some (.ok (.corrupt (b "011"))) ∧
    differingBits (henc (b "1")) (b "011") ≤ 1 :=
  ⟨by decide, next_of (by decide), rfl, by decide⟩

/-- The least lengths at which there is an index and a pair; both registers hold a named, perhaps irrational, real. -/
theorem witness_DrawLawHasTheStatedProbabilities :
    (0 < 1 ∧ (1 : Nat) < 2) ∧ (0 < 1 ∧ 1 < 2 ∧ (1 : Nat) < 2) ∧ (drawsOf 0).length = 4 ∧ (drawsOf 1).length = 4 ∧
    (drawsOf 2).length = 16 ∧
    configLegal { Config.withDefaults 21 1 with p1 := .named 0, p2 := .named 1 } = true := by decide

/-- A digit at either end of the range, and data with and without a marker. -/
theorem witness_TxlineSendsTheRenderedFrame :
    ((t "CH0").getLast? = some 0x30 ∧ (t "CH9").getLast? = some 0x39 ∧ (txt2bits (t "11111")).length = 5 ∧
      (markerSites (padTo 5 (txt2bits (t "11111")))).getLast? = some 4) ∧
    configLegal small.cfg = true ∧ small.cfg.nmax = none ∧ (t "CH3").getLast? = some 0x33 ∧
    0x30 ≤ (0x33 : Sym).toNat ∧ (0x33 : Sym).toNat ≤ 0x39 ∧ (txt2bits (t "1")).length ≤ small.cfg.l := by decide

/-- Both faults of BUILD, PARSE's fault, and a path of each kind that gives its value. -/
theorem witness_PathsEndAtTheFirstFault :
    (exec (.txt2bits (t "A")) small = .next (smallAfter (.ok (.txt2bits (b "01000001")))) ∧
      exec (.build (t "CH") (b "01000001")) (smallAfter (.ok (.txt2bits (b "01000001")))) =
        .next (smallAfter (.formatError .addrSuffix)) ∧
      exec (.build (t "CH3") (b "01000001")) (smallAfter (.ok (.txt2bits (b "01000001")))) =
        .next (smallAfter (.formatError .payloadTooLong))) ∧
    exec (.parse (t "?")) small = .next (smallAfter (.formatError .wireText)) ∧
    txline (t "CH") (t "1") small = .next (smallAfter (.formatError .addrSuffix), none) ∧
    txline (t "CH3") (t "A") small = .next (smallAfter (.formatError .payloadTooLong), none) ∧
    rxline (t "?") small = .next (smallAfter (.formatError .wireText), none) ∧
    txline (t "CH3") (t "1") small = .next (smallAfter (.ok (.render smallLine)), some (smallLine ++ [symLF])) ∧
    rxline smallLine small = .next (smallAfter (.ok (.hdec (b "1") 0)), some (b "1", 0)) :=
  ⟨⟨next_of (by decide), next_of (by decide), next_of (by decide)⟩, next_of (by decide), next_of (by decide),
    next_of (by decide), next_of (by decide), next_of (by decide), next_of (by decide +kernel)⟩

theorem witness_OneChannelErrorPerFrameIsCorrectedEndToEnd :
    exec (.build (t "CH3") (b "1")) small = .next (smallAfter (.ok (.build smallFrame))) ∧
    exec (.corrupt smallFrame.fcs { e1 := true, k1 := 2, e2 := false, ka := 0, kb := 0 }) small =
      .next (smallAfter (.ok (.corrupt (b "110")))) ∧
    differingBits smallFrame.fcs (b "110") ≤ 1 ∧
    exec (.render { smallFrame with fcs := b "110" }) small = .next (smallAfter (.ok (.render
      (t "Flag: 00010101, Dest Addr: 0000, Source Addr: 0011, Data: 1, FCS: 110")))) ∧
    lengthsFit small.cfg
      [(t "Flag: 00010101, Dest Addr: 0000, Source Addr: 0011, Data: 1, FCS: 110").length + 1] = true :=
  ⟨next_of (by decide), next_of (by decide), by decide, next_of (by decide), by decide⟩

theorem witness_ByteCountersAreExactSums :
    CounterEvent.reset ∈ [CounterEvent.wrote .a 5, .reset, .wrote .a 3, .read .b 7] := by decide

theorem witness_TransmitResetsAllCounters :
    transmitLine .a (t "CH3") (t "1") (fun line => some line.length)
        { block := small, counters := { txA := 1, rxA := 2, txB := 3, rxB := 4 } } =
      .next ({ block := smallAfter (.ok (.render smallLine)), counters := { txA := 70, rxA := 0, txB := 0, rxB := 0 } },
        some 70) := next_of (by decide)

end Sys2Proof.Tests
end

section
/-!
PROOFS. TXT2BITS (40_bitvector.md R76, R77): the bits each symbol contributes, how many there are, and O23.
-/

namespace Sys2Proof.Machine

/-- `bin_w` of a word of width `w` is the word's bits, most significant first. -/
theorem binW_toNat {w : Nat} (v : BitVec w) :
    binW w v.toNat = (List.range w).map fun j => v.getLsbD (w - 1 - j) := by
  simp [binW, BitVec.getLsbD, Nat.testBit_eq_decide_div_mod_eq]

/-- A symbol's bits, each written out. -/
theorem symBits_eq_getLsbD (c : Sym) :
    symBits c =
      if c = 0x30 then [false] else if c = 0x31 then [true]
      else [c.getLsbD 7, c.getLsbD 6, c.getLsbD 5, c.getLsbD 4, c.getLsbD 3, c.getLsbD 2, c.getLsbD 1, c.getLsbD 0] := by
  rw [symBits, binW_toNat]
  rfl

/-- A binary digit contributes one bit, any other symbol eight. -/
theorem symBits_length (c : Sym) : (symBits c).length = if c == 0x30 || c == 0x31 then 1 else 8 := by
  by_cases h0 : c = 0x30
  · simp [symBits, h0]
  · by_cases h1 : c = 0x31
    · simp [symBits, h1]
    · simp only [symBits, h0, h1, if_false, binW_length, Bool.or_eq_true, beq_iff_eq, or_self]

/-- TXT2BITS gives one bit per binary digit and eight per other symbol. -/
theorem txt2bits_length (text : SymString) :
    (txt2bits text).length =
      (text.countP fun c => c == 0x30 || c == 0x31) +
        8 * (text.length - text.countP fun c => c == 0x30 || c == 0x31) := by
  rw [txt2bits_eq_flatMap]
  induction text with
  | nil => rfl
  | cons c text ih =>
    have hle := List.countP_le_length (p := fun c : Sym => c == 0x30 || c == 0x31) (l := text)
    rw [List.flatMap_cons, List.length_append, symBits_length, ih, List.countP_cons, List.length_cons]
    split <;> omega

/-- Settles O23: TXT2BITS delivers the scan's bits, which are the symbols' bits in order, and their number is the sum of
the symbols' contributions. -/
theorem txt2bitsExpandsEverySymbol : Obligations.Txt2bitsExpandsEverySymbol := by
  intro text s digits n hc ho hn
  have hlen : (txt2bits text).length = n := txt2bits_length text
  refine ⟨txt2bits text, perform_ok hc ho ?_, hlen, ?_⟩
  · rwa [resultLengths, hlen]
  · rw [txt2bits_eq_flatMap, funext symBits_eq_getLsbD]

end Sys2Proof.Machine
end

section
/-!
PROOFS. The digits of a text (40_bitvector.md R82): `bits_of` answers exactly on the texts of bit strings.
-/

namespace Sys2Proof.Machine

/-- A symbol is a digit exactly when it is the character of a bit. -/
theorem exists_chr_iff {c : Sym} : (∃ b, chr b = c) ↔ c = 0x30 ∨ c = 0x31 := by
  simp [chr, eq_comm]

/-- A text is that of a bit string exactly when all its symbols are digits. -/
theorem exists_txt_iff {t : SymString} : (∃ b, txt b = t) ↔ ∀ c ∈ t, c = 0x30 ∨ c = 0x31 := by
  simp only [← exists_chr_iff]
  exact Set.ext_iff.mp (Set.range_list_map chr) t

@[simp] theorem bitsOf_txt (b : BitString) : bitsOf (txt b) = some b := by
  induction b with
  | nil => rfl
  | cons x b ih => simp [bitsOf, ih]

/-- A symbol that is no digit leaves the text without bits. -/
theorem bitsOf_eq_none_of_mem {t : SymString} {c : Sym} (hc : c ∈ t) (h0 : c ≠ 0x30) (h1 : c ≠ 0x31) :
    bitsOf t = none := by
  have hbit : bitOf c = none := by rw [bitOf, if_neg h0, if_neg h1]
  induction t with
  | nil => cases hc
  | cons x t ih =>
    rcases List.mem_cons.mp hc with rfl | hct
    · simp [bitsOf, hbit]
    · simp [bitsOf, ih hct]

end Sys2Proof.Machine
end

section
/-!
PROOFS. The geometry of a codeword (41_hamming.md R85 to R87): the powers of two among the positions 1 to `n` number
`bitlen(n)`, so that `m + r(m)` positions leave exactly `m` for the data, and these are `dpos(0)` to `dpos(m-1)`.
-/

namespace Sys2Proof.Machine

theorem isPow2_iff {k : Nat} : isPow2 k = true ↔ ∃ t, k = 2 ^ t := by
  rcases Nat.eq_zero_or_pos k with rfl | hk
  · simpa [isPow2] using fun t => (Nat.two_pow_pos t).ne
  · simpa [isPow2, Nat.succ_le_of_lt hk, Nat.isPowerOfTwo] using Nat.and_sub_one_eq_zero_iff_isPowerOfTwo hk.ne'

@[simp] theorem isPow2_two_pow (t : Nat) : isPow2 (2 ^ t) = true := isPow2_iff.mpr ⟨t, rfl⟩

theorem bitlen_le_iff {n t : Nat} : bitlen n ≤ t ↔ n < 2 ^ t := by
  by_cases hn : n = 0
  · simp [bitlen, hn]
  · simpa [bitlen, hn] using Nat.log2_lt hn

theorem lt_bitlen_iff {n i : Nat} : i < bitlen n ↔ 2 ^ i ≤ n := by
  rw [← not_le, bitlen_le_iff, not_lt]

/-- `bitlen` grows exactly at the powers of two. -/
theorem bitlen_succ (n : Nat) : bitlen (n + 1) = bitlen n + if isPow2 (n + 1) then 1 else 0 := by
  split
  case isTrue h =>
    obtain ⟨t, ht⟩ := isPow2_iff.mp h
    have hlt : bitlen n = t := eq_of_forall_ge_iff fun c => by
      rw [bitlen_le_iff, ← Nat.pow_le_pow_iff_right one_lt_two, ← ht, Nat.lt_iff_add_one_le]
    have hge : bitlen (n + 1) = t + 1 := eq_of_forall_ge_iff fun c => by
      rw [bitlen_le_iff, ht, Nat.pow_lt_pow_iff_right one_lt_two, Nat.lt_iff_add_one_le]
    rw [hge, hlt]
  case isFalse h =>
    refine eq_of_forall_lt_iff fun c => ?_
    have hne : n + 1 ≠ 2 ^ c := fun hc => h (isPow2_iff.mpr ⟨c, hc⟩)
    rw [add_zero, lt_bitlen_iff, lt_bitlen_iff]
    omega

/-- `r(m)` parity positions suffice, and fewer do not (41_hamming.md R85). -/
theorem parityCount_spec (m : Nat) :
    m + parityCount m + 1 ≤ 2 ^ parityCount m ∧ ∀ r < parityCount m, 2 ^ r < m + r + 1 := by
  unfold parityCount
  cases h : (List.range (m + 2)).find? fun r => decide (m + r + 1 ≤ 2 ^ r) with
  | none =>
    have hlast := List.find?_eq_none.mp h (m + 1) (by simp)
    have hm : m < 2 ^ m := Nat.lt_two_pow_self
    rw [decide_eq_true_eq, Nat.pow_succ] at hlast
    omega
  | some r =>
    obtain ⟨henough, -, hleast⟩ := List.find?_range_eq_some.mp h
    exact ⟨of_decide_eq_true henough, fun j hj => by simpa using hleast j hj⟩

/-- The length of a codeword has `r(m)` binary digits (41_hamming.md R86). -/
theorem bitlen_codeword (m : Nat) : bitlen (m + parityCount m) = parityCount m := by
  obtain ⟨henough, hleast⟩ := parityCount_spec m
  refine le_antisymm (bitlen_le_iff.mpr henough) (le_of_forall_lt fun i hi => ?_)
  rw [lt_bitlen_iff]
  have := hleast i hi
  omega

/-- The data positions of a word of `n` bits in ascending order (41_hamming.md R86): those that are no powers of two. -/
def dataPositions (n : Nat) : List Nat := (positions n).filter fun k => !isPow2 k

theorem extractData_eq_map (cw : BitString) : extractData cw = (dataPositions cw.length).map (bitAt cw) := rfl

theorem dpos_eq_getD (j : Nat) : dpos j = (dataPositions (2 * j + 4)).getD j 0 := rfl

theorem mem_dataPositions {n k : Nat} : k ∈ dataPositions n ↔ (1 ≤ k ∧ k ≤ n) ∧ isPow2 k = false := by
  simp [dataPositions]

theorem dataPositions_succ (n : Nat) :
    dataPositions (n + 1) = dataPositions n ++ if isPow2 (n + 1) then [] else [n + 1] := by
  rw [dataPositions, positions, List.range'_1_concat, List.filter_append, Nat.add_comm 1 n]
  cases h : isPow2 (n + 1) <;> simp [h, dataPositions, positions]

/-- Of `n` positions `bitlen(n)` are powers of two. -/
theorem dataPositions_length_add_bitlen (n : Nat) : (dataPositions n).length + bitlen n = n := by
  induction n with
  | zero => rfl
  | succ n ih =>
    rw [dataPositions_succ, List.length_append, bitlen_succ]
    cases isPow2 (n + 1) <;> simp <;> omega

/-- A codeword for `m` data bits has `m` data positions (41_hamming.md R86). -/
theorem dataPositions_codeword_length (m : Nat) : (dataPositions (m + parityCount m)).length = m := by
  have := dataPositions_length_add_bitlen (m + parityCount m)
  rw [bitlen_codeword] at this
  omega

theorem dataPositions_prefix {n n' : Nat} (h : n ≤ n') : dataPositions n <+: dataPositions n' := by
  induction h with
  | refl => exact List.prefix_rfl
  | step _ ih => exact ih.trans (dataPositions_succ _ ▸ List.prefix_append _ _)

/-- Enough positions for `dpos(j)`: those up to `2j + 4`. -/
theorem lt_dataPositions_length (j : Nat) : j < (dataPositions (2 * j + 4)).length := by
  have hcount := dataPositions_length_add_bitlen (2 * j + 4)
  have hbit : bitlen (2 * j + 4) ≤ j + 3 := by
    have hj : j < 2 ^ j := Nat.lt_two_pow_self
    rw [bitlen_le_iff, Nat.pow_add]
    omega
  omega

/-- The data positions of any word are `dpos(0)`, `dpos(1)` and so on (41_hamming.md R87). -/
theorem dataPositions_getElem {n j : Nat} (h : j < (dataPositions n).length) : (dataPositions n)[j] = dpos j := by
  have hj := lt_dataPositions_length j
  rw [dpos_eq_getD, List.getD_eq_getElem _ _ hj]
  rcases le_total n (2 * j + 4) with hle | hle
  · exact (dataPositions_prefix hle).getElem h
  · exact ((dataPositions_prefix hle).getElem hj).symm

/-- The j-th extracted bit is the one at `dpos(j)` (41_hamming.md R95). -/
theorem extractData_getElem {cw : BitString} {j : Nat} (h : j < (extractData cw).length) :
    (extractData cw)[j] = bitAt cw (dpos j) := by
  simp only [extractData_eq_map, List.getElem_map, dataPositions_getElem]

/-- No more bits are extracted than the word has. -/
theorem extractData_length_le (cw : BitString) : (extractData cw).length ≤ cw.length := by
  have := dataPositions_length_add_bitlen cw.length
  rw [extractData_eq_map, List.length_map]
  omega

end Sys2Proof.Machine
end

section
/-!
PROOFS. Bits at positions and their XOR (00_scope.md R11, R12): what writing one position leaves unchanged, and the
XOR over a list of positions as the parity of how many of them hold a 1 (41_hamming.md R88, R92).
-/

namespace Sys2Proof.Machine

theorem bitAt_setAt_same {cw : BitString} {k : Nat} (h1 : 1 ≤ k) (hk : k ≤ cw.length) (b : Bit) :
    bitAt (setAt cw k b) k = b := by
  have : k - 1 < cw.length := by omega
  simp [bitAt, setAt, List.getD, this]

theorem bitAt_setAt_of_ne {j k : Nat} (hj : 1 ≤ j) (hk : 1 ≤ k) (hjk : k ≠ j) (cw : BitString) (b : Bit) :
    bitAt (setAt cw j b) k = bitAt cw k := by
  have : j - 1 ≠ k - 1 := by omega
  simp [bitAt, setAt, List.getD, this]

/-- The XOR is 1 exactly when an odd number of the positions hold a 1. -/
theorem xorOver_eq_countP (cw : BitString) (ks : List Nat) :
    xorOver cw ks = decide (ks.countP (bitAt cw) % 2 = 1) := by
  induction ks using List.reverseRecOn with
  | nil => rfl
  | append_singleton ks k ih =>
    rw [xorOver_append_singleton, ih, List.countP_append, List.countP_singleton]
    rcases Nat.mod_two_eq_zero_or_one (ks.countP (bitAt cw)) with h | h <;>
      cases bitAt cw k <;> simp [h, Nat.add_mod]

theorem xorOver_congr {cw cw' : BitString} {ks : List Nat} (h : ∀ k ∈ ks, bitAt cw k = bitAt cw' k) :
    xorOver cw ks = xorOver cw' ks :=
  List.foldl_ext _ _ _ fun _ k hk => by rw [h k hk]

/-- The XOR over distinct positions, one of them taken out. -/
theorem xorOver_eq_xor_filter {ks : List Nat} {k : Nat} (hnodup : ks.Nodup) (hk : k ∈ ks) (cw : BitString) :
    xorOver cw ks = (xorOver cw (ks.filter fun j => decide (j ≠ k)) ^^ bitAt cw k) := by
  have hperm : ks.Perm ((ks.filter fun j => decide (j ≠ k)) ++ [k]) := by
    have herase : ks.erase k = ks.filter fun j => decide (j ≠ k) := by
      rw [hnodup.erase_eq_filter]
      exact List.filter_congr fun j _ => by simp [bne, beq_eq_decide]
    rw [← herase]
    exact (List.perm_cons_erase hk).trans (List.perm_append_singleton _ _).symm
  rw [← xorOver_append_singleton, xorOver_eq_countP, hperm.countP_eq, ← xorOver_eq_countP]

theorem cover_nodup (i n : Nat) : (cover i n).Nodup := List.Nodup.filter _ List.nodup_range'

theorem cover_eq_filter_testBit (i n : Nat) : cover i n = (positions n).filter fun k => k.testBit i :=
  List.filter_congr fun k hk => by
    have hiff : k ∈ cover i n ↔ k.testBit i = true := by simp [mem_cover, mem_positions.mp hk]
    rw [cover, List.mem_filter] at hiff
    exact Bool.eq_iff_iff.mpr ((and_iff_right hk).symm.trans hiff)

/-- Check `i` fails exactly when its cover holds an odd number of 1s (41_hamming.md R92). -/
theorem checkFails_eq_coveredOnes (cw : BitString) (i : Nat) :
    checkFails cw i = decide (coveredOnes cw i % 2 = 1) := by
  rw [checkFails, xorOver_eq_countP, cover_eq_filter_testBit, List.countP_filter, coveredOnes,
    ← List.countP_eq_length_filter]
  simp only [Bool.and_comm]

end Sys2Proof.Machine
end

section
/-!
PROOFS. HENC (41_hamming.md R89, R90): the placement puts the data at the data positions, the parity loop leaves it
there, and each turn of the loop establishes one parity equation and breaks none of the others. O27.
-/

namespace Sys2Proof.Machine

/-- What is placed can be read back at the data positions, when there are as many as data bits. The positions are a
stretch from `a` on, so that an induction can drop the first. -/
theorem map_getD_placeFrom (n a : Nat) (d : BitString)
    (h : ((List.range' a n).filter fun k => !isPow2 k).length = d.length) :
    (((List.range' a n).filter fun k => !isPow2 k).map fun k =>
      (placeFrom (List.range' a n) d).getD (k - a) false) = d := by
  induction n generalizing a d with
  | zero => exact (List.eq_nil_of_length_eq_zero h.symm).symm
  | succ n ih =>
    have hshift : ∀ (x : Bit) (l : BitString), ∀ k ∈ (List.range' (a + 1) n).filter fun k => !isPow2 k,
        (x :: l).getD (k - a) false = l.getD (k - (a + 1)) false := by
      intro x l k hk
      have hak : a + 1 ≤ k := (List.mem_range'_1.mp (List.mem_of_mem_filter hk)).1
      rw [show k - a = (k - (a + 1)) + 1 by omega, List.getD_cons_succ]
    rw [List.range'_succ] at h ⊢
    cases hp : isPow2 a with
    | true =>
      simp only [hp, placeFrom, List.filter_cons, if_true, Bool.not_true, Bool.false_eq_true, if_false] at h ⊢
      rw [List.map_congr_left (hshift _ _)]
      exact ih (a + 1) d h
    | false =>
      cases d with
      | nil => simp [hp] at h
      | cons x d =>
        simp only [hp, placeFrom, List.filter_cons, Bool.not_false, if_true, Bool.false_eq_true, if_false,
          List.length_cons, Nat.add_right_cancel_iff, List.map_cons, Nat.sub_self, List.getD_cons_zero] at h ⊢
        rw [List.map_congr_left (hshift _ _), ih (a + 1) d h]

theorem extractData_placeFrom {n : Nat} {d : BitString} (h : (dataPositions n).length = d.length) :
    extractData (placeFrom (positions n) d) = d := by
  rw [extractData_eq_map, placeFrom_length, positions_length]
  exact map_getD_placeFrom n 1 d h

/-- The parity loop writes no data position. -/
theorem extractData_fixParity (n : Nat) (cw : BitString) (i : Nat) :
    extractData (fixParity n cw i) = extractData cw := by
  rw [extractData_eq_map, extractData_eq_map, fixParity_length]
  refine List.map_congr_left fun k hk => bitAt_setAt_of_ne Nat.one_le_two_pow ?_ ?_ _ _
  · exact (mem_dataPositions.mp hk).1.1
  · rintro rfl
    simp [mem_dataPositions] at hk

/-- A codeword holds its data at the data positions. -/
theorem extractData_henc (d : BitString) : extractData (henc d) = d := by
  have hplaced := extractData_placeFrom (dataPositions_codeword_length d.length)
  exact List.foldlRecOn (motive := fun cw => extractData cw = d) _ _ hplaced
    fun cw hcw i _ => (extractData_fixParity _ cw i).trans hcw

/-- The positions check `i` covers besides its own parity position (41_hamming.md R89). -/
def otherCovered (i n : Nat) : List Nat := (cover i n).filter fun k => decide (k ≠ 2 ^ i)

/-- The parity equation of check `i` (41_hamming.md R89), which one turn of the parity loop writes. -/
def ParityHolds (n : Nat) (cw : BitString) (i : Nat) : Prop := bitAt cw (2 ^ i) = xorOver cw (otherCovered i n)

theorem fixParity_eq_setAt (n : Nat) (cw : BitString) (i : Nat) :
    fixParity n cw i = setAt cw (2 ^ i) (xorOver cw (otherCovered i n)) := rfl

/-- No parity position is among the other covered positions of any check. -/
theorem two_pow_notMem_otherCovered (i j n : Nat) : 2 ^ j ∉ otherCovered i n := by
  intro h
  obtain ⟨hcover, hne⟩ := List.mem_filter.mp h
  have hbit := (mem_cover.mp hcover).2
  rw [Nat.testBit_two_pow, decide_eq_true_eq] at hbit
  simp [hbit] at hne

/-- Writing a parity position leaves the right side of every parity equation. -/
theorem xorOver_otherCovered_fixParity (n m : Nat) (cw : BitString) (i j : Nat) :
    xorOver (fixParity m cw j) (otherCovered i n) = xorOver cw (otherCovered i n) := by
  refine xorOver_congr fun k hk => bitAt_setAt_of_ne Nat.one_le_two_pow ?_ ?_ _ _
  · exact (mem_cover.mp (List.mem_of_mem_filter hk)).1.1
  · rintro rfl
    exact two_pow_notMem_otherCovered i j n hk

theorem parityHolds_fixParity_same {cw : BitString} {i : Nat} (h : 2 ^ i ≤ cw.length) (n : Nat) :
    ParityHolds n (fixParity n cw i) i := by
  rw [ParityHolds, xorOver_otherCovered_fixParity, fixParity_eq_setAt]
  exact bitAt_setAt_same Nat.one_le_two_pow h _

theorem parityHolds_fixParity_of_ne {n i j : Nat} {cw : BitString} (hij : i ≠ j) (h : ParityHolds n cw i) :
    ParityHolds n (fixParity n cw j) i := by
  have hne : 2 ^ i ≠ 2 ^ j := fun e => hij (Nat.pow_right_injective (le_refl 2) e)
  rw [ParityHolds, xorOver_otherCovered_fixParity, fixParity_eq_setAt,
    bitAt_setAt_of_ne Nat.one_le_two_pow Nat.one_le_two_pow hne]
  exact h

/-- After `r` turns of the parity loop the first `r` parity equations hold. -/
theorem parityHolds_parityLoop (n r : Nat) (cw : BitString) (h : ∀ i < r, 2 ^ i ≤ cw.length) :
    ((List.range r).foldl (fixParity n) cw).length = cw.length ∧
      ∀ i < r, ParityHolds n ((List.range r).foldl (fixParity n) cw) i := by
  induction r with
  | zero => simp
  | succ r ih =>
    obtain ⟨hlen, hholds⟩ := ih fun i hi => h i (by omega)
    rw [List.range_succ, List.foldl_append, List.foldl_cons, List.foldl_nil]
    refine ⟨by rw [fixParity_length, hlen], fun i hi => ?_⟩
    rcases Nat.lt_succ_iff_lt_or_eq.mp hi with hlt | rfl
    · exact parityHolds_fixParity_of_ne hlt.ne (hholds i hlt)
    · exact parityHolds_fixParity_same (by rw [hlen]; exact h i hi) n

/-- Every parity position of HENC lies within the codeword. -/
theorem two_pow_le_henc_length {d : BitString} {i : Nat} (h : i < parityCount d.length) :
    2 ^ i ≤ (henc d).length := by
  rw [henc_length]
  rwa [← lt_bitlen_iff, bitlen_codeword]

/-- HENC establishes every parity equation. -/
theorem parityHolds_henc {d : BitString} {i : Nat} (h : i < parityCount d.length) :
    ParityHolds (henc d).length (henc d) i := by
  rw [henc_length]
  refine (parityHolds_parityLoop _ _ (placeFrom (positions _) d) fun j hj => ?_).2 i h
  simpa using two_pow_le_henc_length hj

/-- A parity equation makes its check agree. -/
theorem checkFails_eq_false_of_parityHolds {cw : BitString} {i : Nat} (hi : 2 ^ i ≤ cw.length)
    (h : ParityHolds cw.length cw i) : checkFails cw i = false := by
  have hmem : 2 ^ i ∈ cover i cw.length := mem_cover.mpr ⟨⟨Nat.one_le_two_pow, hi⟩, Nat.testBit_two_pow_self⟩
  rw [checkFails, xorOver_eq_xor_filter (cover_nodup i _) hmem, h]
  exact Bool.xor_self _

/-- Every check of a codeword agrees (41_hamming.md R89). -/
theorem checkFails_henc {d : BitString} {i : Nat} (h : i < parityCount d.length) : checkFails (henc d) i = false :=
  checkFails_eq_false_of_parityHolds (two_pow_le_henc_length h) (parityHolds_henc h)

/-- Settles O27: the data is what extraction reads back, the parity equations are what the loop establishes, and each
makes its cover even. -/
theorem hencPlacesDataAndParity : Obligations.HencPlacesDataAndParity := by
  intro data s hc ho hr
  refine ⟨henc data, perform_ok hc ho ?_, henc_length data, fun j hj => ?_, fun i hi => ⟨parityHolds_henc hi, ?_⟩⟩
  · rwa [resultLengths, henc_length]
  · have hj' : j < (extractData (henc data)).length := by rwa [extractData_henc]
    rw [← extractData_getElem hj', List.getD_eq_getElem _ _ hj]
    simp only [extractData_henc]
  · have heven := checkFails_henc hi
    rw [checkFails_eq_coveredOnes, decide_eq_false_iff_not] at heven
    omega

end Sys2Proof.Machine
end

section
/-!
PROOFS. HDEC (41_hamming.md R91 to R96): its two faults, its completion on every other text, and the clean decoding of a
codeword, whose syndrome is 0. O29, O31, O33.
-/

namespace Sys2Proof.Machine

theorem exec_hdec (text : SymString) (s : State) :
    exec (.hdec text) s = perform none [text.length] (hdec text) s := rfl

theorem hdec_nil : hdec [] = .error .emptyCodeword := rfl

theorem hdec_of_nonbinary {text : SymString} {c : Sym} (hc : c ∈ text) (h0 : c ≠ 0x30) (h1 : c ≠ 0x31) :
    hdec text = .error .nonbinaryCodeword := by
  have hne : text ≠ [] := List.ne_nil_of_mem hc
  simp [hdec, hne, bitsOf_eq_none_of_mem hc h0 h1]

theorem hdec_txt {b : BitString} (hb : b ≠ []) : hdec (txt b) = .ok (hdecWord b) := by
  simp [hdec, hb]

/-- HDEC with a fault answers it. -/
theorem exec_hdec_of_error {text : SymString} {c : Cause} {s : State} (h : hdec text = .error c)
    (hc : configLegal s.cfg = true) (ho : lengthsFit s.cfg [text.length] = true) :
    exec (.hdec text) s = .next (s.takeFormatError c) := by
  rw [exec_hdec, h]
  exact perform_error hc ho

/-- HDEC completes on the text of every non-empty word; the data is no longer than the word, so it fits too. -/
theorem exec_hdec_txt {b : BitString} {s : State} (hb : b ≠ []) (hc : configLegal s.cfg = true)
    (ho : lengthsFit s.cfg [b.length] = true) :
    exec (.hdec (txt b)) s = .next (s.respond (.ok (hdecWord b))) := by
  have hle := extractData_length_le (correct b (syndrome b))
  rw [exec_hdec, hdec_txt hb, txt_length]
  exact perform_ok hc ho (lengthsFit_mono ho (by simpa [hdecWord, resultLengths] using hle))

/-- Settles O29: the text is empty, or has a symbol that is no digit, or is the text of a non-empty word. -/
theorem hdecFaultsAreTheTwo : Obligations.HdecFaultsAreTheTwo := by
  intro text s hc ho
  refine ⟨?_, ?_, ?_⟩
  · rintro rfl
    exact exec_hdec_of_error hdec_nil hc ho
  · rintro - ⟨c, hmem, h0, h1⟩
    exact exec_hdec_of_error (hdec_of_nonbinary hmem h0 h1) hc ho
  · intro hne hdigits
    obtain ⟨b, rfl⟩ := exists_txt_iff.mpr hdigits
    exact ⟨_, _, exec_hdec_txt (fun hb => hne (hb ▸ txt_nil)) hc (by simpa using ho)⟩

/-- The syndrome is 0 when every check agrees (41_hamming.md R93). -/
theorem syndrome_eq_zero {cw : BitString} (h : ∀ i < bitlen cw.length, checkFails cw i = false) :
    syndrome cw = 0 :=
  List.foldlRecOn (motive := fun s => s = 0) _ _ rfl
    fun s hs i hi => by simp [h i (List.mem_range.mp hi), hs]

theorem syndrome_henc (d : BitString) : syndrome (henc d) = 0 :=
  syndrome_eq_zero fun _ hi => checkFails_henc (by rwa [henc_length, bitlen_codeword] at hi)

@[simp] theorem correct_zero (cw : BitString) : correct cw 0 = cw := rfl

/-- A codeword decodes to its data with syndrome 0. -/
theorem hdecWord_henc (d : BitString) : hdecWord (henc d) = .hdec d 0 := by
  rw [hdecWord, syndrome_henc, correct_zero, extractData_henc]

/-- Settles O31: a codeword of non-empty data is a non-empty word, on which HDEC completes; the empty one faults. -/
theorem freshCodewordDecodesClean : Obligations.FreshCodewordDecodesClean := by
  intro d s hc ho
  refine ⟨fun hd => ?_, ?_⟩
  · have hne : henc d ≠ [] := by
      have := List.length_pos_of_ne_nil hd
      rw [← List.length_pos_iff, henc_length]
      omega
    rw [exec_hdec_txt hne hc (by rwa [henc_length]), hdecWord_henc]
    rfl
  · rintro rfl
    exact ⟨rfl, exec_hdec_of_error hdec_nil hc ho⟩

/-- Settles O33: the codeword of the seven bits and its eleven flips, evaluated. -/
theorem propertyFiveElevenFlips : Obligations.PropertyFiveElevenFlips :=
  ⟨by decide, by decide, by decide⟩

end Sys2Proof.Machine
end

section
/-!
PROOFS. STUFF and DESTUFF (42_bitstuffer.md R106, R109): the two scans run in step, the registers of DESTUFF over what
STUFF has put out so far holding the bits STUFF has taken and the same run counter, with no drop outstanding. O39, O42.
-/

namespace Sys2Proof.Machine

/-- DESTUFF, having read all that STUFF's registers hold as output, has recovered the input `x`, counts the same run of
1s and owes no drop. -/
def DestuffInStep (w : StuffRegs) (x : BitString) : Prop :=
  w.out.foldl destuffBit {} = { out := x, cnt := w.cnt, skip := false }

/-- One input bit keeps the scans in step: DESTUFF copies the bit, and after a fifth 1 drops the marker. -/
theorem destuffInStep_stuffBit {w : StuffRegs} {x : BitString} (h : DestuffInStep w x) (b : Bit) :
    DestuffInStep (stuffBit w b) (x ++ [b]) := by
  unfold DestuffInStep at h ⊢
  cases b with
  | false => rw [stuffBit_false, List.foldl_concat, h, destuffBit_false rfl]
  | true =>
    by_cases h5 : w.cnt + 1 = 5
    · rw [stuffBit_true_of_eq h5, List.foldl_append, h, List.foldl_cons, destuffBit_true_of_eq rfl h5,
        List.foldl_cons, destuffBit_skip rfl, List.foldl_nil]
    · rw [stuffBit_true_of_ne h5, List.foldl_concat, h, destuffBit_true_of_ne rfl h5]

theorem destuffInStep_stuffScan (x : BitString) : DestuffInStep (stuffScan x) x := by
  induction x using List.reverseRecOn with
  | nil => rfl
  | append_singleton x b ih =>
    rw [stuffScan, List.foldl_concat]
    exact destuffInStep_stuffBit ih b

/-- DESTUFF is a left inverse of STUFF on every bit string (42_bitstuffer.md R111). -/
theorem destuff_stuffScan_out (x : BitString) : destuff (stuffScan x).out = x :=
  congrArg DestuffRegs.out (destuffInStep_stuffScan x)

theorem exec_stuff (x : BitString) (s : State) :
    exec (.stuff x) s = perform none [x.length] (.ok (.stuff (stuffScan x).out (stuffScan x).last)) s := rfl

/-- When STUFF delivers a string, the configuration was legal, operand and result are within capacity, and the string is
the output of the scan. -/
theorem exec_stuff_next_cases {x y : BitString} {last : Option Nat} {s t : State}
    (h : exec (.stuff x) s = .next t) (hresp : t.response = some (.ok (.stuff y last))) :
    configLegal s.cfg = true ∧ lengthsFit s.cfg [x.length] = true ∧ lengthsFit s.cfg [y.length] = true ∧
      y = (stuffScan x).out := by
  rw [exec_stuff] at h
  obtain ⟨hc, -, ho, ⟨c, herr, -⟩ | ⟨r, hr, hfit, rfl⟩⟩ := perform_next_cases h
  · cases herr
  · cases hr
    rw [State.respond_response] at hresp
    cases hresp
    exact ⟨hc, ho, hfit, rfl⟩

/-- DESTUFF completes when its operand and its result are within capacity. -/
theorem exec_destuff_of_fits {y : BitString} {s : State} (hc : configLegal s.cfg = true)
    (ho : lengthsFit s.cfg [y.length] = true) (hr : lengthsFit s.cfg [(destuff y).length] = true) :
    exec (.destuff y) s = .next (s.respond (.ok (.destuff (destuff y)))) :=
  perform_ok hc ho hr

/-- Settles O39: that STUFF delivered shows both strings within capacity, and the scans in step give the operand back. -/
theorem destuffInvertsStuff : Obligations.DestuffInvertsStuff := by
  intro x y last s t s' hstuff hresp hcfg
  obtain ⟨hc, hx, hy, rfl⟩ := exec_stuff_next_cases hstuff hresp
  have hback := destuff_stuffScan_out x
  rw [← hcfg] at hc hx hy
  rw [exec_destuff_of_fits hc hy (by rwa [hback]), hback]
  rfl

/-- Settles O42: the scan of the twelve bits is evaluated; that destuffing returns them is the left inverse. -/
theorem propertySixTwoMarkers : Obligations.PropertySixTwoMarkers := by
  refine ⟨rfl, rfl, rfl, ?_⟩
  exact destuff_stuffScan_out [true, true, true, true, true, false, true, true, true, true, true, false]

end Sys2Proof.Machine
end

section
/-!
PROOFS. BUILD (43_frame.md R124 to R126): its two faults, the channel suffix checked before the payload length. O43.
-/

namespace Sys2Proof.Machine

theorem exec_build (chan : SymString) (payload : BitString) (s : State) :
    exec (.build chan payload) s = perform none [chan.length, payload.length] (build s.cfg chan payload) s := rfl

/-- A channel identifier without a digit at its end is a fault whatever the payload. -/
theorem build_of_no_suffix {chan : SymString} (h : chanDigit chan = none) (cfg : Config) (payload : BitString) :
    build cfg chan payload = .error .addrSuffix := by
  simp [build, h]

theorem build_of_long_payload {chan : SymString} {d : Nat} (h : chanDigit chan = some d) {cfg : Config}
    {payload : BitString} (hlong : cfg.l < payload.length) : build cfg chan payload = .error .payloadTooLong := by
  simp [build, h, hlong]

/-- An identifier has no digit when its last symbol, if there is one, lies outside 0x30 to 0x39. -/
theorem chanDigit_eq_none {chan : SymString}
    (h : ∀ c, chan.getLast? = some c → c.toNat < 0x30 ∨ 0x39 < c.toNat) : chanDigit chan = none := by
  refine Option.eq_none_iff_forall_ne_some.mpr fun d hd => ?_
  obtain ⟨c, hlast, hlo, hhi, -⟩ := chanDigit_eq_some_iff.mp hd
  have := h c hlast
  omega

/-- BUILD with a fault answers it. -/
theorem exec_build_of_error {chan : SymString} {payload : BitString} {c : Cause} {s : State}
    (h : build s.cfg chan payload = .error c) (hc : configLegal s.cfg = true)
    (ho : lengthsFit s.cfg [chan.length, payload.length] = true) :
    exec (.build chan payload) s = .next (s.takeFormatError c) := by
  rw [exec_build, h]
  exact perform_error hc ho

/-- Settles O43: without a digit BUILD faults before it looks at the payload; with one, an over-long payload faults. -/
theorem buildChecksTheSuffixFirst : Obligations.BuildChecksTheSuffixFirst := by
  intro chan payload s hc ho
  refine ⟨fun hsuffix => ?_, ?_⟩
  · exact exec_build_of_error (build_of_no_suffix (chanDigit_eq_none hsuffix) _ _) hc ho
  · rintro ⟨c, hlast, hlo, hhi⟩ hlong
    have hdigit := chanDigit_eq_some_iff.mpr ⟨c, hlast, hlo, hhi, rfl⟩
    exact exec_build_of_error (build_of_long_payload hdigit hlong) hc ho

end Sys2Proof.Machine
end

section
/-!
PROOFS. The parts of a wire line (30_encoding.md R63, R64; 43_frame.md R132, R134): what each reader of PARSE answers,
said as an equation between the text read and the text of what it answers.
-/

namespace Sys2Proof.Machine

/-- A symbol of a bit string's text is a digit. -/
theorem eq_of_mem_txt {b : BitString} {c : Sym} (h : c ∈ txt b) : c = 0x30 ∨ c = 0x31 :=
  exists_txt_iff.mp ⟨b, rfl⟩ c h

/-- A text has bits exactly when it is the text of those bits (40_bitvector.md R82). -/
theorem bitsOf_eq_some_iff {t : SymString} {b : BitString} : bitsOf t = some b ↔ t = txt b := by
  refine ⟨fun h => ?_, fun h => h ▸ bitsOf_txt b⟩
  have hdigits : ∀ c ∈ t, c = 0x30 ∨ c = 0x31 := by
    intro c hc
    by_contra hne
    rw [not_or] at hne
    rw [bitsOf_eq_none_of_mem hc hne.1 hne.2] at h
    cases h
  obtain ⟨b', rfl⟩ := exists_txt_iff.mpr hdigits
  rw [bitsOf_txt] at h
  rw [Option.some.inj h]

/-- `takebits(w)` reads the digits of `w` bits. -/
theorem takeBits_eq_some_iff_txt {w : Nat} {t rest : SymString} {b : BitString} :
    takeBits w t = some (b, rest) ↔ b.length = w ∧ t = txt b ++ rest := by
  rw [takeBits_eq_some_iff, bitsOf_eq_some_iff]
  constructor
  · rintro ⟨hw, htake, rfl⟩
    exact ⟨by rw [← txt_length, ← htake, List.length_take_of_le hw], by rw [← htake, List.take_append_drop]⟩
  · rintro ⟨rfl, rfl⟩
    simp [← txt_length]

theorem notMem_txt {c : Sym} (h0 : c ≠ 0x30) (h1 : c ≠ 0x31) (b : BitString) : c ∉ txt b :=
  fun h => (eq_of_mem_txt h).elim h0 h1

theorem symOpen_notMem_txt (b : BitString) : symOpen ∉ txt b := notMem_txt (by decide) (by decide) b

theorem symClose_notMem_txt (b : BitString) : symClose ∉ txt b := notMem_txt (by decide) (by decide) b

/-- Without an opening bracket `unbracket` reads the digits; a closing one is no digit. -/
theorem unbracket_of_no_open {raw : SymString} (h : symOpen ∉ raw) : unbracket raw = bitsOf raw := by
  by_cases hclose : symClose ∈ raw
  · simp [unbracket, h, bitsOf_eq_none_of_mem hclose (by decide) (by decide)]
  · simp [unbracket, List.count_eq_zero.mpr h, List.count_eq_zero.mpr hclose]

/-- At its first opening bracket `unbracket` wants a digit and then the only closing bracket, and no second opening one
anywhere. -/
theorem unbracket_at_open {pre post : SymString} (h : symOpen ∉ pre) :
    unbracket (pre ++ symOpen :: post) =
      if post.count symOpen = 0 ∧ pre.count symClose + post.count symClose = 1 ∧ post[1]? = some symClose ∧
          (post[0]? = some 0x30 ∨ post[0]? = some 0x31) then
        bitsOf (pre ++ post.take 1 ++ post.drop 2)
      else none := by
  have hidx : (pre ++ symOpen :: post).idxOf symOpen = pre.length := by
    rw [List.idxOf_append_of_notMem h, List.idxOf_cons_self, Nat.add_zero]
  have hopen : (pre ++ symOpen :: post).count symOpen = post.count symOpen + 1 := by
    simp [List.count_eq_zero.mpr h]
  have hclose : (pre ++ symOpen :: post).count symClose = pre.count symClose + post.count symClose := by
    simp [symOpen, symClose]
  simp [unbracket, hidx, hopen, hclose, List.getElem?_append_right, List.drop_length_add_append]

/-- What `unbracket` reads at an opening bracket is a digit in brackets between digits. -/
theorem dataFieldText_of_unbracket_at_open {pre post : SymString} {st : BitString} (hpre : symOpen ∉ pre)
    (h : unbracket (pre ++ symOpen :: post) = some st) : DataFieldText (pre ++ symOpen :: post) st := by
  rw [unbracket_at_open hpre, Option.ite_none_right_eq_some] at h
  obtain ⟨⟨-, -, hclose, -⟩, hbits⟩ := h
  match post with
  | [] | [_] => simp at hclose
  | d :: e :: post =>
    obtain rfl : e = symClose := by simpa using hclose
    have htxt : txt st = pre ++ d :: post := by simpa using (bitsOf_eq_some_iff.mp hbits).symm
    obtain ⟨a, _, rfl, rfl, hrest⟩ := List.map_eq_append_iff.mp htxt
    obtain ⟨b, c, rfl, rfl, rfl⟩ := List.map_eq_cons_iff.mp hrest
    exact .inr ⟨a, b, c, rfl, by simp [txt]⟩

/-- A digit in brackets between digits is read without the brackets. -/
theorem unbracket_bracketed (a : BitString) (b : Bit) (c : BitString) :
    unbracket (txt a ++ symOpen :: chr b :: symClose :: txt c) = some (a ++ b :: c) := by
  have hopen : (chr b :: symClose :: txt c).count symOpen = 0 := by
    simp only [List.count_cons, List.count_eq_zero.mpr (symOpen_notMem_txt c)]
    cases b <;> decide
  have hclose : (txt a).count symClose + (chr b :: symClose :: txt c).count symClose = 1 := by
    simp only [List.count_cons, List.count_eq_zero.mpr (symClose_notMem_txt _)]
    cases b <;> decide
  rw [unbracket_at_open (symOpen_notMem_txt a), if_pos, bitsOf_eq_some_iff]
  · simp
  · exact ⟨hopen, hclose, rfl, by simpa using exists_chr_iff.mp ⟨b, rfl⟩⟩

/-- `unbracket` answers exactly on the Data fields of the grammar, with their digits (43_frame.md R134). -/
theorem unbracket_eq_some_iff {raw : SymString} {st : BitString} :
    unbracket raw = some st ↔ DataFieldText raw st := by
  constructor
  · intro h
    by_cases hmem : symOpen ∈ raw
    · obtain ⟨pre, post, rfl, hpre⟩ := List.eq_append_cons_of_mem hmem
      exact dataFieldText_of_unbracket_at_open hpre h
    · rw [unbracket_of_no_open hmem, bitsOf_eq_some_iff] at h
      exact .inl h
  · rintro (rfl | ⟨a, b, c, rfl, rfl⟩)
    · rw [unbracket_of_no_open (symOpen_notMem_txt st), bitsOf_txt]
    · simpa using unbracket_bracketed a b c

/-- A Data field holds none but Data symbols. -/
theorem DataFieldText.all_isDataSym {raw : SymString} {st : BitString} (h : DataFieldText raw st) :
    ∀ c ∈ raw, isDataSym c = true := by
  have hdigit : ∀ b, ∀ c ∈ txt b, isDataSym c = true := fun b c hc => by
    obtain rfl | rfl := eq_of_mem_txt hc <;> rfl
  obtain rfl | ⟨a, b, c, -, rfl⟩ := h
  · exact hdigit st
  · have hbracket : ∀ x ∈ [symOpen, chr b, symClose], isDataSym x = true := by cases b <;> decide
    simp only [List.forall_mem_append]
    exact ⟨⟨hdigit a, hbracket⟩, hdigit c⟩

/-- PARSE finds the end of the Data field: Data symbols with the FCS label behind them are the whole run
of them, for the label's first symbol is none. -/
theorem takeWhile_isDataSym_and_dropWhile_iff {raw rest t : SymString} (h : ∀ c ∈ raw, isDataSym c = true) :
    t.takeWhile isDataSym = raw ∧ t.dropWhile isDataSym = labelFcs ++ rest ↔ t = raw ++ labelFcs ++ rest := by
  constructor
  · rintro ⟨htake, hdrop⟩
    rw [← List.takeWhile_append_dropWhile (p := isDataSym) (l := t), htake, hdrop, List.append_assoc]
  · rintro rfl
    simp [List.takeWhile_append_of_pos h, List.dropWhile_append_of_pos h, labelFcs, isDataSym, symOpen, symClose]

/-- The last symbol of a line is a digit of the FCS field, or the blank before it. -/
theorem lineText_getLast?_ne_symLF (f : FrameFields) (raw : SymString) : (lineText f raw).getLast? ≠ some symLF := by
  have hend : (lineText f raw).getLast? = (labelFcs ++ txt f.fcs).getLast? := by
    rw [lineText, List.append_assoc, List.getLast?_append_of_ne_nil _ (by simp [labelFcs])]
  rw [hend]
  intro hlast
  obtain hmem | hmem := List.mem_append.mp (List.mem_of_getLast? hlast)
  · exact absurd hmem (by decide)
  · exact notMem_txt (by decide) (by decide) _ hmem

/-- What reads as a line after at most one line feed is dropped is the line or the line with a line feed
(30_encoding.md R65). -/
theorem dropOneLF_eq_iff {line : SymString} (h : line.getLast? ≠ some symLF) {text : SymString} :
    dropOneLF text = line ↔ text = line ∨ text = line ++ [symLF] := by
  unfold dropOneLF
  constructor
  · rintro rfl
    split
    case isTrue hlast => exact .inr (List.dropLast_append_getLast? _ hlast).symm
    case isFalse => exact .inl rfl
  · rintro (rfl | rfl)
    · exact if_neg h
    · simp

end Sys2Proof.Machine
end

section
/-!
PROOFS. PARSE (43_frame.md R131 to R135): it answers a frame exactly on the lines for that frame. O47.
-/

namespace Sys2Proof.Machine

theorem exec_parse (text : SymString) (s : State) :
    exec (.parse text) s = perform none [text.length] (parse s.cfg text) s := rfl

theorem frameTyped_iff {cfg : Config} {f : FrameFields} :
    frameTyped cfg f = true ↔ f.flag.length = 8 ∧ f.dest.length = 4 ∧ f.src.length = 4 ∧ f.data.length = cfg.l ∧
      f.fcs.length = fcsLength cfg := by
  simp [frameTyped, and_assoc]

/-- PARSE reads a line from left to right: what each reader leaves behind is what the next one starts on. -/
theorem parseLine_eq_some_iff_lineText {cfg : Config} {text : SymString} {f : FrameFields} :
    parseLine cfg text = some f ↔ frameTyped cfg f = true ∧
      ∃ raw st, DataFieldText raw st ∧ destuff st = f.data ∧ dropOneLF text = lineText f raw := by
  simp only [parseLine, Option.bind_eq_bind, Option.bind_eq_some_iff, Prod.exists, expect_eq_some_iff,
    takeBits_eq_some_iff_txt, unbracket_eq_some_iff, bitsOf_eq_some_iff, Option.ite_none_right_eq_some,
    Option.some.injEq]
  constructor
  · rintro ⟨_, htext, flag, _, ⟨hflag, rfl⟩, _, rfl, dest, _, ⟨hdest, rfl⟩, _, rfl, src, _, ⟨hsrc, rfl⟩, t6, rfl,
      _, hdrop, st, hst, fcs, rfl, ⟨hdata, hfcs⟩, rfl⟩
    have ht6 := (takeWhile_isDataSym_and_dropWhile_iff hst.all_isDataSym).mp ⟨rfl, hdrop⟩
    refine ⟨frameTyped_iff.mpr ⟨hflag, hdest, hsrc, hdata, hfcs⟩, t6.takeWhile isDataSym, st, hst, rfl, ?_⟩
    simp only [htext, lineText, List.append_assoc] at ht6 ⊢
    rw [← ht6]
  · rintro ⟨htyped, raw, st, hst, hdata, htext⟩
    obtain ⟨hflag, hdest, hsrc, hlen, hfcs⟩ := frameTyped_iff.mp htyped
    obtain ⟨htake, hdrop⟩ :=
      (takeWhile_isDataSym_and_dropWhile_iff (rest := txt f.fcs) hst.all_isDataSym).mpr rfl
    refine ⟨_, by rw [htext]; simp only [lineText, List.append_assoc], f.flag, _, ⟨hflag, rfl⟩, _, rfl,
      f.dest, _, ⟨hdest, rfl⟩, _, rfl, f.src, labelData ++ (raw ++ labelFcs ++ txt f.fcs), ⟨hsrc, rfl⟩, _, rfl,
      _, hdrop, st, htake.symm ▸ hst, f.fcs, rfl, ⟨hdata ▸ hlen, hfcs⟩, ?_⟩
    simp [hdata]

/-- PARSE's function answers a frame exactly on the lines for it. -/
theorem parseLine_eq_some_iff {cfg : Config} {text : SymString} {f : FrameFields} :
    parseLine cfg text = some f ↔ WireLine cfg text f := by
  simp only [parseLine_eq_some_iff_lineText, WireLine, dropOneLF_eq_iff (lineText_getLast?_ne_symLF _ _)]

theorem parse_of_wireLine {cfg : Config} {text : SymString} {f : FrameFields} (h : WireLine cfg text f) :
    parse cfg text = .ok (.parse f) := by
  simp [parse, parseLine_eq_some_iff.mpr h]

theorem parse_of_no_wireLine {cfg : Config} {text : SymString} (h : ∀ f, ¬ WireLine cfg text f) :
    parse cfg text = .error .wireText := by
  have hnone : parseLine cfg text = none :=
    Option.eq_none_iff_forall_ne_some.mpr fun f hf => h f (parseLine_eq_some_iff.mp hf)
  simp [parse, hnone]

/-- No field of a frame is longer than a line for it: four stand in the line digit by digit, and the data is no longer
than the FCS. -/
theorem frameLengths_le_of_wireLine {cfg : Config} {text : SymString} {f : FrameFields} (h : WireLine cfg text f) :
    ∀ n ∈ frameLengths f, n ≤ text.length := by
  obtain ⟨htyped, raw, st, -, -, htext⟩ := h
  obtain ⟨-, -, -, hdata, hfcs⟩ := frameTyped_iff.mp htyped
  have hline : (lineText f raw).length ≤ text.length := by
    obtain rfl | rfl := htext <;> simp
  simp only [lineText, List.length_append, txt_length] at hline
  rw [fcsLength] at hfcs
  simp only [frameLengths, List.forall_mem_cons, List.not_mem_nil, false_imp_iff, implies_true, and_true]
  omega

/-- Settles O47: PARSE's function answers the frame on a line for it, whose fields fit because the line does, and faults
on a text that is no line. -/
theorem parseAcceptsExactlyTheGrammar : Obligations.ParseAcceptsExactlyTheGrammar := by
  intro text s hc ho
  refine ⟨fun f hf => ?_, fun hnone => ?_⟩
  · rw [exec_parse, parse_of_wireLine hf]
    have hfit : lengthsFit s.cfg (frameLengths f) = true :=
      lengthsFit_mono ho (by simpa using frameLengths_le_of_wireLine hf)
    exact perform_ok hc ho hfit
  · rw [exec_parse, parse_of_no_wireLine hnone]
    exact perform_error hc ho

end Sys2Proof.Machine
end

section
/-!
PROOFS. CORRUPT (44_channel.md R146 to R148, R152): each event xors its mask into the bits and keeps the length, so the
result is the operand xor both masks; the response is a function of the operands alone. O49, O52.
-/

namespace Sys2Proof.Machine

/-- Of each event that can happen at the length, the indices must lie within it (44_channel.md R146). -/
theorem drawAdmissible_iff {n : Nat} {d : Draw} :
    drawAdmissible n d = true ↔
      (d.e1 = true → 1 ≤ n → d.k1 < n) ∧ (d.e2 = true → 2 ≤ n → d.ka < n ∧ d.kb < n ∧ d.ka ≠ d.kb) := by
  have himp : ∀ a b : Bool, (!a || b) = true ↔ (a = true → b = true) := by decide
  simp only [drawAdmissible, Bool.and_eq_true, himp, decide_eq_true_eq, and_imp, and_assoc]

/-- A bit after one flip. -/
theorem flipAt_getD (s : BitString) (i : Nat) {j : Nat} (hj : j < s.length) :
    (flipAt s i).getD j false = (s.getD j false ^^ decide (i = j)) := by
  rw [List.getD_eq_getElem?_getD, flipAt_getElem? s i j hj, Option.getD_some]

@[simp] theorem singleFlip_length (d : Draw) (bits : BitString) : (singleFlip d bits).length = bits.length := by
  unfold singleFlip; split <;> simp

@[simp] theorem doubleFlip_length (d : Draw) (bits : BitString) : (doubleFlip d bits).length = bits.length := by
  unfold doubleFlip; split <;> simp

@[simp] theorem corrupt_length (bits : BitString) (d : Draw) : (corrupt bits d).length = bits.length := by
  simp [corrupt]

/-- The single flip is the xor of its mask; a string with an index is long enough for the event. -/
theorem singleFlip_getD (d : Draw) {bits : BitString} {i : Nat} (hi : i < bits.length) :
    (singleFlip d bits).getD i false = (bits.getD i false ^^ (d.e1 && decide (d.k1 = i))) := by
  have hlen : 1 ≤ bits.length := by omega
  cases he : d.e1 with
  | false => simp [singleFlip, he]
  | true => simp only [singleFlip, he, hlen, and_self, if_true, flipAt_getD bits d.k1 hi, Bool.true_and]

/-- The double flip is the xor of its mask where there are two positions. -/
theorem doubleFlip_getD (d : Draw) {bits : BitString} {i : Nat} (hi : i < bits.length) :
    (doubleFlip d bits).getD i false =
      (bits.getD i false ^^
        (d.e2 && decide (2 ≤ bits.length) && (decide (d.ka = i) ^^ decide (d.kb = i)))) := by
  unfold doubleFlip
  split
  case isTrue h =>
    rw [flipAt_getD _ _ (by rwa [flipAt_length]), flipAt_getD _ _ hi]
    simp [h]
  case isFalse h =>
    have hoff : (d.e2 && decide (2 ≤ bits.length)) = false := by simpa using h
    simp [hoff]

/-- The two events compose to the xor of both masks (44_channel.md R148). -/
theorem corrupt_getElem? (d : Draw) {bits : BitString} {i : Nat} (hi : i < bits.length) :
    (corrupt bits d)[i]? = some (bits.getD i false ^^
      ((d.e1 && decide (d.k1 = i)) ^^
        (d.e2 && decide (2 ≤ bits.length) && (decide (d.ka = i) ^^ decide (d.kb = i))))) := by
  have hi' : i < (corrupt bits d).length := by rwa [corrupt_length]
  rw [List.getElem?_eq_getElem hi', ← List.getD_eq_getElem _ false hi', corrupt,
    doubleFlip_getD d (by rwa [singleFlip_length]), singleFlip_getD d hi, singleFlip_length, Bool.xor_assoc]

theorem exec_corrupt (bits : BitString) (d : Draw) (s : State) :
    exec (.corrupt bits d) s =
      perform (if drawAdmissible bits.length d then none else some .inadmissibleDraw) [bits.length]
        (.ok (.corrupt (corrupt bits d))) s := rfl

/-- CORRUPT completes under an admissible draw; the result has the operand's length, so it fits too. -/
theorem exec_corrupt_of_admissible {bits : BitString} {d : Draw} {s : State} (hc : configLegal s.cfg = true)
    (ho : lengthsFit s.cfg [bits.length] = true) (hd : drawAdmissible bits.length d = true) :
    exec (.corrupt bits d) s = .next (s.respond (.ok (.corrupt (corrupt bits d)))) := by
  rw [exec_corrupt, if_pos hd]
  exact perform_ok hc ho (by rwa [resultLengths, corrupt_length])

/-- When CORRUPT answers, the draw was admissible and the response is the function's value at the operands. -/
theorem exec_corrupt_next_cases {bits : BitString} {d : Draw} {s t : State}
    (h : exec (.corrupt bits d) s = .next t) :
    drawAdmissible bits.length d = true ∧ t = s.respond (.ok (.corrupt (corrupt bits d))) := by
  rw [exec_corrupt] at h
  obtain ⟨-, hq, -, ⟨c, herr, -⟩ | ⟨r, hr, -, rfl⟩⟩ := perform_next_cases h
  · cases herr
  · cases hr
    exact ⟨by simpa using hq, rfl⟩

/-- Settles O49: CORRUPT delivers its function's value, whose bits are the operand's xor the masks of both events. -/
theorem corruptXorsTheMask : Obligations.CorruptXorsTheMask := by
  intro bits d s hc ho hsingle hdouble
  have hd := drawAdmissible_iff.mpr ⟨hsingle, hdouble⟩
  exact ⟨corrupt bits d, exec_corrupt_of_admissible hc ho hd, corrupt_length bits d,
    fun i hi => corrupt_getElem? d hi⟩

/-- Settles O52: both responses are the function's value at the same operands. -/
theorem corruptIsReproducible : Obligations.CorruptIsReproducible := by
  intro bits d s s' t t' h h'
  obtain ⟨-, rfl⟩ := exec_corrupt_next_cases h
  obtain ⟨-, rfl⟩ := exec_corrupt_next_cases h'
  simp only [State.respond_response]

end Sys2Proof.Machine
end

section
/-!
PROOFS. Requests (30_encoding.md R55 to R60): each reader of operands answers exactly on what the writer of those
operands presents, so that decoder and encoder are inverse to each other; and the nine codes with a meaning. O1, O2, O3,
O5.
-/

namespace Sys2Proof

/-- A reader of a whole operand answers when nothing is left over. -/
theorem whole_eq_some_iff {α : Type} {o : Option (α × List Nat)} {a : α} : whole o = some a ↔ o = some (a, []) := by
  match o with
  | none => simp [whole]
  | some (x, []) => simp [whole]
  | some (x, v :: rest) => simp [whole]

section Readers

variable {α : Type} {f : Nat → Option α} {g : α → Nat}

/-- An element reader answers exactly on the number that presents the element. -/
def ReadsBack (f : Nat → Option α) (g : α → Nat) : Prop := ∀ v a, f v = some a ↔ v = g a

/-- `n` elements are read exactly where `n` elements are written. -/
theorem readMany_eq_some_iff (h : ReadsBack f g) {n : Nat} {items rest : List Nat} {as : List α} :
    readMany f n items = some (as, rest) ↔ as.length = n ∧ items = as.map g ++ rest := by
  constructor
  · exact readMany_inv (fun v a hv => ((h v a).mp hv).symm) n items as rest
  · rintro ⟨rfl, rfl⟩
    exact readMany_map (fun a => (h _ a).mpr rfl) as rest

/-- A string is read exactly where its length and its elements are written. -/
theorem readString_eq_some_iff (h : ReadsBack f g) {items rest : List Nat} {as : List α} :
    readString f items = some (as, rest) ↔ items = as.length :: (as.map g ++ rest) := by
  cases items with
  | nil => simp [readString]
  | cons n items => simp [readString, readMany_eq_some_iff h, eq_comm]

end Readers

theorem readsBack_readBit : ReadsBack readBit Bool.toNat :=
  fun v b => ⟨fun h => (readBit_inv v b h).symm, fun h => h ▸ readBit_toNat b⟩

theorem readsBack_readSym : ReadsBack readSym BitVec.toNat :=
  fun v c => ⟨fun h => (readSym_inv v c h).symm, fun h => h ▸ readSym_toNat c⟩

/-- Format S. -/
theorem readS_eq_some_iff {items : List Nat} {t : SymString} :
    readS items = some t ↔ items = t.length :: writeSyms t := by
  simp [readS, whole_eq_some_iff, readString_eq_some_iff readsBack_readSym, writeSyms]

/-- Format B. -/
theorem readB_eq_some_iff {items : List Nat} {b : BitString} :
    readB items = some b ↔ items = b.length :: writeBits b := by
  simp [readB, whole_eq_some_iff, readString_eq_some_iff readsBack_readBit, writeBits]

/-- Format SB reads its operands one after another. -/
theorem readSB_eq_bind (items : List Nat) :
    readSB items = (readString readSym items).bind fun p => (readB p.2).map fun b => (p.1, b) := by
  unfold readSB
  cases readString readSym items <;> rfl

/-- Format SB. -/
theorem readSB_eq_some_iff {items : List Nat} {p : SymString × BitString} :
    readSB items = some p ↔ items = p.1.length :: writeSyms p.1 ++ p.2.length :: writeBits p.2 := by
  obtain ⟨t, b⟩ := p
  simp [readSB_eq_bind, Option.bind_eq_some_iff, readString_eq_some_iff readsBack_readSym, readB_eq_some_iff, writeSyms]

/-- A draw is read exactly where its five fields are written. -/
theorem readDraw_eq_some_iff {items rest : List Nat} {d : Draw} :
    readDraw items = some (d, rest) ↔ items = d.e1.toNat :: d.k1 :: d.e2.toNat :: d.ka :: d.kb :: rest := by
  obtain ⟨e1, k1, e2, ka, kb⟩ := d
  constructor
  · intro h
    unfold readDraw at h
    split at h
    case h_2 => cases h
    case h_1 =>
      split at h
      case h_2 => cases h
      case h_1 b1 b2 h1 h2 =>
        rw [readsBack_readBit] at h1 h2
        cases h
        rw [h1, h2]
  · rintro rfl
    simp [readDraw]

/-- Format BD reads its operands one after another. -/
theorem readBD_eq_bind (items : List Nat) :
    readBD items = (readString readBit items).bind fun p => (whole (readDraw p.2)).map fun d => (p.1, d) := by
  unfold readBD
  cases readString readBit items <;> rfl

/-- Format BD. -/
theorem readBD_eq_some_iff {items : List Nat} {p : BitString × Draw} :
    readBD items = some p ↔ items = operandItems (.corrupt p.1 p.2) := by
  obtain ⟨b, d⟩ := p
  simp [readBD_eq_bind, Option.bind_eq_some_iff, readString_eq_some_iff readsBack_readBit, whole_eq_some_iff,
    readDraw_eq_some_iff, operandItems, writeBits]

/-- A frame is read exactly where its five fields are written, each of the length its type gives it (43_frame.md
R120). -/
theorem readFrame_eq_some_iff {cfg : Config} {items rest : List Nat} {f : FrameFields} :
    readFrame cfg items = some (f, rest) ↔
      Machine.frameTyped cfg f = true ∧ items = operandItems (.render f) ++ rest := by
  have hread := @readMany_eq_some_iff _ _ _ readsBack_readBit
  simp only [Machine.frameTyped_iff, operandItems, writeBits, List.append_assoc]
  constructor
  · intro h
    unfold readFrame at h
    split at h
    case h_1 => cases h
    case h_2 flag i1 hflag =>
      split at h
      case h_1 => cases h
      case h_2 dest i2 hdest =>
        split at h
        case h_1 => cases h
        case h_2 src i3 hsrc =>
          split at h
          case h_1 => cases h
          case h_2 data i4 hdata =>
            split at h
            case h_1 => cases h
            case h_2 fcs i5 hfcs =>
              cases h
              rw [hread] at hflag hdest hsrc hdata hfcs
              obtain ⟨hflag, rfl⟩ := hflag
              obtain ⟨hdest, rfl⟩ := hdest
              obtain ⟨hsrc, rfl⟩ := hsrc
              obtain ⟨hdata, rfl⟩ := hdata
              obtain ⟨hfcs, rfl⟩ := hfcs
              exact ⟨⟨hflag, hdest, hsrc, hdata, hfcs⟩, rfl⟩
  · rintro ⟨⟨hflag, hdest, hsrc, hdata, hfcs⟩, rfl⟩
    unfold readFrame
    simp only [hread.mpr ⟨hflag, rfl⟩, hread.mpr ⟨hdest, rfl⟩, hread.mpr ⟨hsrc, rfl⟩, hread.mpr ⟨hdata, rfl⟩,
      hread.mpr ⟨hfcs, rfl⟩]

/-- Format F. -/
theorem readF_eq_some_iff {cfg : Config} {items : List Nat} {f : FrameFields} :
    readF cfg items = some f ↔ Machine.frameTyped cfg f = true ∧ items = operandItems (.render f) := by
  rw [readF, whole_eq_some_iff, readFrame_eq_some_iff, List.append_nil]

theorem orIllTyped_map_eq_ok_iff {α : Type} {o : Option α} {k : α → Instr} {i : Instr} :
    orIllTyped (o.map k) = .ok i ↔ ∃ a, o = some a ∧ k a = i := by
  cases o <;> simp [orIllTyped]

/-- An operation whose frame, if it has one, is of its type (43_frame.md R120). The ranges of a draw are no part of it:
the decoder leaves them to CORRUPT (44_channel.md R146). -/
def FrameOperandTyped (cfg : Config) (i : Instr) : Prop := ∀ f, i = .render f → Machine.frameTyped cfg f = true

theorem frameOperandTyped_of_wellFormed {cfg : Config} {i : Instr} (h : i.wellFormed cfg = true) :
    FrameOperandTyped cfg i := by
  rintro f rfl
  exact h

theorem frameOperandTyped_render {cfg : Config} {f : FrameFields} :
    FrameOperandTyped cfg (.render f) ↔ Machine.frameTyped cfg f = true :=
  ⟨fun h => h f rfl, fun h _ hf => by cases hf; exact h⟩

theorem frameOperandTyped_of_ne_render {cfg : Config} {i : Instr} (h : ∀ f, i ≠ .render f) : FrameOperandTyped cfg i :=
  fun f hf => absurd hf (h f)

theorem request_eq_encode {op : BitVec 4} {items : List Nat} {i : Instr} (hop : op.toNat = (opCode i).toNat)
    (hitems : items = operandItems i) : ({ op := op, items := items } : Request) = encode i := by
  rw [encode, BitVec.eq_of_toNat_eq hop, hitems]

/-- What the decoder answers is of its type, and the encoder presents it as the decoded request. -/
theorem eq_encode_of_decode {cfg : Config} {r : Request} {i : Instr} (h : decode cfg r = .ok i) :
    r = encode i ∧ FrameOperandTyped cfg i := by
  obtain ⟨op, items⟩ := r
  unfold decode at h
  split at h
  case h_10 => cases h
  case h_6 hop =>
    obtain ⟨p, hp, rfl⟩ := orIllTyped_map_eq_ok_iff.mp h
    exact ⟨request_eq_encode hop (readSB_eq_some_iff.mp hp), frameOperandTyped_of_ne_render (by simp)⟩
  case h_7 hop =>
    obtain ⟨f, hf, rfl⟩ := orIllTyped_map_eq_ok_iff.mp h
    obtain ⟨htyped, hitems⟩ := readF_eq_some_iff.mp hf
    exact ⟨request_eq_encode hop hitems, frameOperandTyped_render.mpr htyped⟩
  case h_9 hop =>
    obtain ⟨p, hp, rfl⟩ := orIllTyped_map_eq_ok_iff.mp h
    exact ⟨request_eq_encode hop (readBD_eq_some_iff.mp hp), frameOperandTyped_of_ne_render (by simp)⟩
  case h_1 hop | h_3 hop | h_8 hop =>
    obtain ⟨t, ht, rfl⟩ := orIllTyped_map_eq_ok_iff.mp h
    exact ⟨request_eq_encode hop (readS_eq_some_iff.mp ht), frameOperandTyped_of_ne_render (by simp)⟩
  case h_2 hop | h_4 hop | h_5 hop =>
    obtain ⟨b, hb, rfl⟩ := orIllTyped_map_eq_ok_iff.mp h
    exact ⟨request_eq_encode hop (readB_eq_some_iff.mp hb), frameOperandTyped_of_ne_render (by simp)⟩

/-- What the encoder presents is decoded, when the frame is of its type. -/
theorem decode_encode {cfg : Config} {i : Instr} (h : FrameOperandTyped cfg i) : decode cfg (encode i) = .ok i := by
  cases i with
  | txt2bits t | hdec t | parse t => exact orIllTyped_map_eq_ok_iff.mpr ⟨t, readS_eq_some_iff.mpr rfl, rfl⟩
  | henc b | stuff b | destuff b => exact orIllTyped_map_eq_ok_iff.mpr ⟨b, readB_eq_some_iff.mpr rfl, rfl⟩
  | build chan payload =>
    exact orIllTyped_map_eq_ok_iff.mpr ⟨(chan, payload), readSB_eq_some_iff.mpr rfl, rfl⟩
  | render f =>
    exact orIllTyped_map_eq_ok_iff.mpr ⟨f, readF_eq_some_iff.mpr ⟨frameOperandTyped_render.mp h, rfl⟩, rfl⟩
  | corrupt bits d => exact orIllTyped_map_eq_ok_iff.mpr ⟨(bits, d), readBD_eq_some_iff.mpr rfl, rfl⟩

/-- The decoder calls a request reserved exactly when its code is 9 to 15 (30_encoding.md R58). -/
theorem decode_eq_reservedOp_iff {cfg : Config} {r : Request} :
    decode cfg r = .error .reservedOp ↔ 9 ≤ r.op.toNat := by
  unfold decode
  split
  case h_10 =>
    refine ⟨fun _ => ?_, fun _ => rfl⟩
    simp only [imp_false] at *
    omega
  all_goals
    next hop => simp [Laws.OpCode.orIllTyped_ne_reserved, hop]

/-- Every code below 9 is that of a well-formed operation, under every configuration: the all-zero operands. -/
theorem exists_wellFormed_of_opCode (cfg : Config) {op : BitVec 4} (h : op.toNat < 9) :
    ∃ i, opCode i = op ∧ i.wellFormed cfg = true := by
  have hcodes : op = 0 ∨ op = 1 ∨ op = 2 ∨ op = 3 ∨ op = 4 ∨ op = 5 ∨ op = 6 ∨ op = 7 ∨ op = 8 := by
    revert op; decide
  obtain rfl | rfl | rfl | rfl | rfl | rfl | rfl | rfl | rfl := hcodes
  · exact ⟨.txt2bits [], rfl, rfl⟩
  · exact ⟨.henc [], rfl, rfl⟩
  · exact ⟨.hdec [], rfl, rfl⟩
  · exact ⟨.stuff [], rfl, rfl⟩
  · exact ⟨.destuff [], rfl, rfl⟩
  · exact ⟨.build [] [], rfl, rfl⟩
  · refine ⟨.render ⟨Machine.zeros 8, Machine.zeros 4, Machine.zeros 4, Machine.zeros cfg.l,
      Machine.zeros (Machine.fcsLength cfg)⟩, rfl, Machine.frameTyped_iff.mpr ?_⟩
    simp only [Machine.zeros_length, and_self]
  · exact ⟨.parse [], rfl, rfl⟩
  · exact ⟨.corrupt [] ⟨false, 0, false, 0, 0⟩, rfl, rfl⟩

/-- Settles O1: a well-formed frame is of its type, and each reader answers on what the writer presents. -/
theorem decodeOfEncodeIsTheOperation : Obligations.DecodeOfEncodeIsTheOperation :=
  fun _ _ hwf => decode_encode (frameOperandTyped_of_wellFormed hwf)

/-- Settles O2: each reader answers on nothing but what the writer presents. -/
theorem encodeOfDecodeIsTheRequest : Obligations.EncodeOfDecodeIsTheRequest := fun _ _ _ h =>
  have ⟨hr, htyped⟩ := eq_encode_of_decode h
  ⟨hr.symm, htyped⟩

/-- Settles O3: each request is decoded by evaluation. -/
theorem operationWordsDecode : Obligations.OperationWordsDecode :=
  ⟨rfl, rfl, rfl, rfl, rfl, rfl, rfl, rfl, rfl⟩

/-- Settles O5: the decoder looks at the code first, and a code with a meaning has an operation that is decoded. -/
theorem nineCodesSelectAndSevenAreReserved : Obligations.NineCodesSelectAndSevenAreReserved := by
  refine fun cfg op => ⟨fun h items => decode_eq_reservedOp_iff.mpr h, fun h => ⟨?_, fun items hres => ?_⟩⟩
  · obtain ⟨i, rfl, hwf⟩ := exists_wellFormed_of_opCode cfg h
    exact ⟨operandItems i, i, decode_encode (frameOperandTyped_of_wellFormed hwf)⟩
  · exact absurd (decode_eq_reservedOp_iff.mp hres) (Nat.not_le.mpr h)

end Sys2Proof
end

section
/-!
PROOFS. Every operation is one use of `perform` (00_scope.md R15): when it answers a next state and which, when it is
refused, and that both depend on the state through the configuration alone. O10, O12, O13, O17, O18, O19, O20, O60.
-/

namespace Sys2Proof.Machine

/-- The response that delivers an outcome: results or a FormatError (10_state.md R26). -/
def responseTo : Except Cause Results → Response
  | .ok r => .ok r
  | .error c => .formatError c

theorem responseTo_ne_illegalOp (o : Except Cause Results) : responseTo o ≠ .illegalOp := by
  cases o <;> simp [responseTo]

theorem responseTo_eq_ok_iff {o : Except Cause Results} {r : Results} : responseTo o = .ok r ↔ o = .ok r := by
  cases o <;> simp [responseTo]

section Perform

variable {q : Option Refusal} {lens : List Nat} {out : Except Cause Results} {s t : State}

/-- The results of an outcome, if it has any, are within capacity. -/
def OutcomeFits (cfg : Config) (out : Except Cause Results) : Prop :=
  ∀ r, out = .ok r → lengthsFit cfg (resultLengths r) = true

theorem perform_eq_next_iff :
    perform q lens out s = .next t ↔
      configLegal s.cfg = true ∧ q = none ∧ lengthsFit s.cfg lens = true ∧ OutcomeFits s.cfg out ∧
        t = s.respond (responseTo out) := by
  constructor
  · intro h
    obtain ⟨hc, hq, ho, ⟨c, rfl, rfl⟩ | ⟨r, rfl, hr, rfl⟩⟩ := perform_next_cases h
    · exact ⟨hc, hq, ho, nofun, rfl⟩
    · exact ⟨hc, hq, ho, fun _ h => Except.ok.inj h ▸ hr, rfl⟩
  · rintro ⟨hc, rfl, ho, hr, rfl⟩
    cases out with
    | error c => exact perform_error hc ho
    | ok r => exact perform_ok hc ho (hr r rfl)

theorem perform_of_illegal (h : configLegal s.cfg = false) : perform q lens out s = .refused .illegalConfiguration := by
  simp [perform, h]

theorem perform_of_illTyped {r : Refusal} (h : configLegal s.cfg = true) :
    perform (some r) lens out s = .refused r := by
  simp [perform, h]

theorem perform_of_overlong (hc : configLegal s.cfg = true) (ho : lengthsFit s.cfg lens = false) :
    perform none lens out s = .refused .capacityExceeded := by
  simp [perform, hc, ho]

/-- A typed operation under a legal configuration is refused for want of capacity only. -/
theorem perform_refused_cases {r : Refusal} (hc : configLegal s.cfg = true) (h : perform none lens out s = .refused r) :
    r = .capacityExceeded := by
  simp only [perform, hc, if_true] at h
  split at h
  case isFalse => cases h; rfl
  case isTrue =>
    split at h
    case h_1 => cases h
    case h_2 =>
      split at h
      case isTrue => cases h
      case isFalse => cases h; rfl

theorem perform_refused_congr {s' : State} {r : Refusal} (hcfg : s.cfg = s'.cfg)
    (h : perform q lens out s = .refused r) : perform q lens out s' = .refused r := by
  rw [perform_congr_cfg hcfg, h]

end Perform

/-- The refusal that names an operand outside its type, if there is one (30_encoding.md R59). -/
def typeRefusal (cfg : Config) : Instr → Option Refusal
  | .render f => if frameTyped cfg f then none else some .illTypedFrame
  | .corrupt bits d => if drawAdmissible bits.length d then none else some .inadmissibleDraw
  | _ => none

/-- The results or the fault of an operation (10_state.md R24, 60_exceptions.md R171). -/
def outcomeOf (cfg : Config) : Instr → Except Cause Results
  | .txt2bits text => .ok (.txt2bits (txt2bits text))
  | .henc data => .ok (.henc (henc data))
  | .hdec cwtext => hdec cwtext
  | .stuff bits => .ok (.stuff (stuffScan bits).out (stuffScan bits).last)
  | .destuff stuffed => .ok (.destuff (destuff stuffed))
  | .build chan payload => build cfg chan payload
  | .render f => .ok (.render (render f))
  | .parse text => parse cfg text
  | .corrupt bits d => .ok (.corrupt (corrupt bits d))

theorem exec_eq_perform (i : Instr) (s : State) :
    exec i s = perform (typeRefusal s.cfg i) (operandLengths i) (outcomeOf s.cfg i) s := by
  cases i <;> rfl

theorem typeRefusal_eq_none_iff {cfg : Config} {i : Instr} : typeRefusal cfg i = none ↔ i.wellFormed cfg = true := by
  cases i <;> simp [typeRefusal, Instr.wellFormed]

theorem exec_eq_next_iff {i : Instr} {s t : State} :
    exec i s = .next t ↔
      configLegal s.cfg = true ∧ i.wellFormed s.cfg = true ∧ lengthsFit s.cfg (operandLengths i) = true ∧
        OutcomeFits s.cfg (outcomeOf s.cfg i) ∧ t = s.respond (responseTo (outcomeOf s.cfg i)) := by
  rw [exec_eq_perform, perform_eq_next_iff, typeRefusal_eq_none_iff]

theorem exec_of_wellFormed {i : Instr} {s : State} (h : i.wellFormed s.cfg = true) :
    exec i s = perform none (operandLengths i) (outcomeOf s.cfg i) s := by
  rw [exec_eq_perform, typeRefusal_eq_none_iff.mpr h]

/-- Under one configuration an operation that is answered in one state is answered in every other, and alike. -/
theorem exec_next_congr {i : Instr} {s s' t : State} (hcfg : s.cfg = s'.cfg) (h : exec i s = .next t) :
    exec i s' = .next { cfg := s'.cfg, pending := s'.pending, response := t.response } := by
  rw [exec_eq_next_iff, hcfg] at h
  obtain ⟨hc, hwf, ho, hr, rfl⟩ := h
  exact exec_eq_next_iff.mpr ⟨hc, hwf, ho, hr, rfl⟩

theorem exec_refused_congr {i : Instr} {s s' : State} {r : Refusal} (hcfg : s.cfg = s'.cfg)
    (h : exec i s = .refused r) : exec i s' = .refused r := by
  rw [exec_eq_perform] at h ⊢
  rw [← hcfg]
  exact perform_refused_congr hcfg h

/-- The operations whose results do not depend on the configuration: all but BUILD and PARSE (70_reset_and_hazards.md
R197). -/
theorem outcomeOf_congr {i : Instr} (hbuild : ∀ chan payload, i ≠ .build chan payload)
    (hparse : ∀ text, i ≠ .parse text) (cfg cfg' : Config) : outcomeOf cfg i = outcomeOf cfg' i := by
  cases i with
  | build chan payload => exact absurd rfl (hbuild chan payload)
  | parse text => exact absurd rfl (hparse text)
  | txt2bits _ | henc _ | hdec _ | stuff _ | destuff _ | render _ | corrupt _ _ => rfl

/-- The operations without a fault: all but HDEC, BUILD and PARSE (60_exceptions.md R171). -/
theorem exists_outcomeOf_eq_ok {i : Instr} (hhdec : ∀ text, i ≠ .hdec text)
    (hbuild : ∀ chan payload, i ≠ .build chan payload) (hparse : ∀ text, i ≠ .parse text) (cfg : Config) :
    ∃ r, outcomeOf cfg i = .ok r := by
  cases i with
  | hdec text => exact absurd rfl (hhdec text)
  | build chan payload => exact absurd rfl (hbuild chan payload)
  | parse text => exact absurd rfl (hparse text)
  | txt2bits _ | henc _ | stuff _ | destuff _ | render _ | corrupt _ _ => exact ⟨_, rfl⟩

/-- Settles O10: the next state is the earlier one with the response to the outcome. -/
theorem operationsChangeOnlyTheResponse : Obligations.OperationsChangeOnlyTheResponse := by
  intro i s t h
  obtain ⟨-, -, -, -, rfl⟩ := exec_eq_next_iff.mp h
  exact ⟨rfl, rfl, _, rfl, responseTo_ne_illegalOp _⟩

/-- Settles O12. -/
theorem outcomeDependsOnOperandsAndConfiguration : Obligations.OutcomeDependsOnOperandsAndConfiguration :=
  fun _ _ _ hcfg => ⟨fun _ h => exec_next_congr hcfg h, fun _ h => exec_refused_congr hcfg h⟩

/-- Settles O13: both responses answer the same outcome. -/
theorem onlyBuildAndParseReadTheConfiguration : Obligations.OnlyBuildAndParseReadTheConfiguration := by
  intro i s s' t t' hbuild hparse h h'
  obtain ⟨-, -, -, -, rfl⟩ := exec_eq_next_iff.mp h
  obtain ⟨-, -, -, -, rfl⟩ := exec_eq_next_iff.mp h'
  rw [State.respond_response, State.respond_response, outcomeOf_congr hbuild hparse]

/-- Settles O17: the reset keeps the configuration, which is all that the response depends on. -/
theorem resetBetweenOperationsIsUnobservable : Obligations.ResetBetweenOperationsIsUnobservable :=
  fun _ _ _ h => ⟨rfl, rfl, exec_next_congr (State.resetEvent_cfg _).symm h⟩

/-- Settles O19. -/
theorem overlongStringsAreRefused : Obligations.OverlongStringsAreRefused := by
  refine ⟨fun i s hc hwf hlong => ?_, fun i s t r m n h hresp hm hn => ?_, fun i s q hc hwf h => ?_⟩
  · rw [exec_of_wellFormed hwf]
    exact perform_of_overlong hc hlong
  · obtain ⟨-, -, -, hfit, rfl⟩ := exec_eq_next_iff.mp h
    have hok := responseTo_eq_ok_iff.mp (Option.some.inj hresp)
    exact lengthsFit_iff.mp (hfit r hok) m hm n hn
  · rw [exec_of_wellFormed hwf] at h
    exact perform_refused_cases hc h

/-- Settles O20: the response answers an outcome that is no fault. -/
theorem sixOperationsNeverFault : Obligations.SixOperationsNeverFault := by
  intro i s t hhdec hbuild hparse h
  obtain ⟨-, -, -, -, rfl⟩ := exec_eq_next_iff.mp h
  obtain ⟨r, hr⟩ := exists_outcomeOf_eq_ok hhdec hbuild hparse s.cfg
  exact ⟨r, by rw [State.respond_response, hr]; rfl⟩

/-- Settles O60: unbounded buffers hold operands and results. -/
theorem everyWellFormedOperationIsAnswered : Obligations.EveryWellFormedOperationIsAnswered := fun i s hc hn hwf =>
  ⟨responseTo (outcomeOf s.cfg i), responseTo_ne_illegalOp _,
    exec_eq_next_iff.mpr ⟨hc, hwf, lengthsFit_of_unbounded hn _, fun _ _ => lengthsFit_of_unbounded hn _, rfl⟩⟩

end Sys2Proof.Machine
end

section
/-!
PROOFS. The step (20_memory.md R49, 70_reset_and_hazards.md R211): what it does with nothing presented, with a request
that is decoded and with one that is rejected. O4, O6, O7, O8, O9, O11, O18.
-/

namespace Sys2Proof.Machine

section

variable {s : State} {r : Request} {rest : List Request}

theorem step_of_idle (h : s.pending = []) : step s = .next s.idle := by
  simp [step, h]

theorem step_of_decode {i : Instr} (hp : s.pending = r :: rest) (hd : decode s.cfg r = .ok i) :
    step s = exec i (s.accept rest) := by
  simp [step, hp, hd]

theorem step_of_reject {e : DecodeError} (hp : s.pending = r :: rest) (hd : decode s.cfg r = .error e) :
    step s = rejectRequest e (s.accept rest) := by
  simp [step, hp, hd]

theorem rejectRequest_reservedOp (h : configLegal s.cfg = true) :
    rejectRequest .reservedOp s = .next s.takeIllegalOp := by
  simp [rejectRequest, h]

theorem rejectRequest_illTyped (h : configLegal s.cfg = true) :
    rejectRequest .illTyped s = .refused .illTypedRequest := by
  simp [rejectRequest, h]

theorem rejectRequest_of_illegal (h : configLegal s.cfg = false) (e : DecodeError) :
    rejectRequest e s = .refused .illegalConfiguration := by
  simp [rejectRequest, h]

end

/-- What a step that answers a next state did: it idled, or it took the oldest request and answered it, performing the
operation or refusing the reserved code. -/
theorem step_next_cases {s t : State} (h : step s = .next t) :
    (s.pending = [] ∧ t = s.idle) ∨
      ∃ r rest, s.pending = r :: rest ∧
        ((∃ i, decode s.cfg r = .ok i ∧ exec i (s.accept rest) = .next t) ∨
          decode s.cfg r = .error .reservedOp ∧ configLegal s.cfg = true ∧ t = (s.accept rest).takeIllegalOp) := by
  match hp : s.pending with
  | [] =>
    rw [step_of_idle hp] at h
    cases h
    exact .inl ⟨rfl, rfl⟩
  | r :: rest =>
    refine .inr ⟨r, rest, rfl, ?_⟩
    cases hd : decode s.cfg r with
    | ok i => exact .inl ⟨i, rfl, step_of_decode hp hd ▸ h⟩
    | error e =>
      rw [step_of_reject hp hd] at h
      obtain ⟨hc, rfl, rfl⟩ := rejectRequest_next_cases h
      exact .inr ⟨rfl, hc, rfl⟩

theorem exec_of_illegal {s : State} (h : configLegal s.cfg = false) (i : Instr) :
    exec i s = .refused .illegalConfiguration := by
  rw [exec_eq_perform]
  exact perform_of_illegal h

/-- Settles O4: the decoder rejects the code before it reads an operand. -/
theorem reservedCodeGetsStatusFifteen : Obligations.ReservedCodeGetsStatusFifteen := by
  refine ⟨fun s r rest hp hc hop => ?_, rfl, nofun⟩
  rw [step_of_reject hp (decode_eq_reservedOp_iff.mpr hop)]
  exact rejectRequest_reservedOp (s := s.accept rest) hc

/-- Settles O6. -/
theorem stepRunsTheDecodedOperation : Obligations.StepRunsTheDecodedOperation :=
  fun _ _ _ _ hp hd => step_of_decode hp hd

/-- Settles O7: the step looks at the oldest request alone, and decoding undoes encoding. -/
theorem requestsArePerformedInOrder : Obligations.RequestsArePerformedInOrder := by
  refine ⟨fun s t r hne h => ?_, fun s i hp hwf => ?_⟩
  · obtain ⟨hnil, -⟩ | ⟨q, rest, hp, ⟨i, hd, hex⟩ | ⟨hd, hc, rfl⟩⟩ := step_next_cases h
    · exact absurd hnil hne
    · have hp' : (s.present r).pending = q :: (rest ++ [r]) := by simp [hp]
      obtain ⟨-, -, -, -, rfl⟩ := exec_eq_next_iff.mp hex
      rw [step_of_decode hp' hd]
      exact exec_next_congr (s := s.accept rest) rfl hex
    · have hp' : (s.present r).pending = q :: (rest ++ [r]) := by simp [hp]
      rw [step_of_reject hp' hd]
      exact rejectRequest_reservedOp (s := (s.present r).accept (rest ++ [r])) hc
  · have hp' : (s.present (encode i)).pending = [encode i] := by simp [hp]
    exact step_of_decode hp' (decode_encode (frameOperandTyped_of_wellFormed hwf))

/-- Settles O8. -/
theorem idleStepChangesNoRegister : Obligations.IdleStepChangesNoRegister := fun s h => by
  rw [step_of_idle h, State.idle, h]

/-- Settles O9: the decoder rejects ill-typed operands, and RENDER refuses an ill-typed frame before all else. -/
theorem illTypedRequestIsRefused : Obligations.IllTypedRequestIsRefused := by
  refine ⟨fun s r rest hp hc hd => ?_, fun s f hc hlen => ?_⟩
  · rw [step_of_reject hp hd]
    exact rejectRequest_illTyped (s := s.accept rest) hc
  · have htyped : ¬ frameTyped s.cfg f = true := by
      rw [frameTyped_iff, fcsLength]
      omega
    rw [exec_eq_perform, typeRefusal, if_neg htyped]
    exact perform_of_illTyped hc

/-- Settles O11. -/
theorem stepsNeverWriteTheConfiguration : Obligations.StepsNeverWriteTheConfiguration := by
  intro s t h
  obtain ⟨hp, rfl⟩ | ⟨r, rest, hp, ⟨i, -, hex⟩ | ⟨-, -, rfl⟩⟩ := step_next_cases h
  · simp [hp]
  · obtain ⟨-, -, -, -, rfl⟩ := exec_eq_next_iff.mp hex
    simp [hp]
  · simp [hp]

/-- Settles O18: the configuration is looked at before the operation, and by a rejected request too. -/
theorem illegalConfigurationRefusesEverything : Obligations.IllegalConfigurationRefusesEverything := by
  refine fun s hc => ⟨exec_of_illegal hc, fun r rest hp => ?_⟩
  cases hd : decode s.cfg r with
  | ok i => exact (step_of_decode hp hd).trans (exec_of_illegal (s := s.accept rest) hc i)
  | error e => exact (step_of_reject hp hd).trans (rejectRequest_of_illegal (s := s.accept rest) hc e)

end Sys2Proof.Machine
end

section
/-!
PROOFS. The reset values (10_state.md R35), the invariant at reset, and the status codes (10_state.md R26). O15, O16,
O21.
-/

namespace Sys2Proof.Machine

/-- Without a response in the port the invariant asks for a legal configuration only. -/
theorem inv_of_no_response {s : State} (hc : configLegal s.cfg = true) (hr : s.response = none) : Inv s :=
  ⟨hc, fun r h => by rw [hr] at h; cases h⟩

/-- Settles O15. -/
theorem invariantHoldsAtReset : Obligations.InvariantHoldsAtReset :=
  ⟨fun _ hc => inv_of_no_response hc rfl, inv_of_no_response (by decide) rfl⟩

/-- Settles O16: the defaults are 3/5 and 1/4 exactly. -/
theorem resetLeavesTheBlockIdle : Obligations.ResetLeavesTheBlockIdle := by
  refine fun gid l => ⟨rfl, rfl, fun names => ?_, rfl, rfl⟩
  simp only [State.resetWith_cfg, Config.withDefaults, Probability.value_rational, Rat.mkRat_eq_div]
  norm_num

/-- Settles O21: the status of each response and of each cause. -/
theorem statusCodesAreThoseOfTheTable : Obligations.StatusCodesAreThoseOfTheTable := by
  refine ⟨fun r => ?_, fun c => ?_⟩
  · cases r with
    | ok x => simp [Response.status]
    | formatError c => cases c <;> simp [Response.status, Cause.code]
    | illegalOp => simp [Response.status]
  · cases c <;> rfl

end Sys2Proof.Machine
end

section
/-!
PROOFS. The operators of 00_scope.md R12: a number's binary digits are dealt with from the last one backwards. O22.
-/

namespace Sys2Proof.Machine

theorem binW_succ (w v : Nat) : binW (w + 1) v = binW w (v / 2) ++ [decide (v % 2 = 1)] := by
  have hshift : ∀ j ∈ List.range w,
      decide (v / 2 ^ (w - j) % 2 = 1) = decide (v / 2 / 2 ^ (w - 1 - j) % 2 = 1) := by
    intro j hj
    have hexp : w - j = (w - 1 - j) + 1 := by
      have := List.mem_range.mp hj
      omega
    rw [Nat.div_div_eq_div_mul, hexp, Nat.pow_succ']
  simp only [binW, List.range_succ, List.map_append, List.map_singleton, Nat.add_sub_cancel, Nat.sub_self, pow_zero,
    Nat.div_one, List.map_congr_left hshift]

theorem num_append_singleton (b : BitString) (x : Bit) : num (b ++ [x]) = 2 * num b + x.toNat := by
  simp [num]

theorem num_binW {w v : Nat} (h : v < 2 ^ w) : num (binW w v) = v := by
  induction w generalizing v with
  | zero =>
    obtain rfl : v = 0 := by simpa using h
    rfl
  | succ w ih =>
    have hhalf : v / 2 < 2 ^ w := by
      rw [Nat.pow_succ] at h
      omega
    rw [binW_succ, num_append_singleton, ih hhalf]
    rcases Nat.mod_two_eq_zero_or_one v with hv | hv <;> simp [hv] <;> omega

theorem binW_num (b : BitString) : binW b.length (num b) = b := by
  induction b using List.reverseRecOn with
  | nil => rfl
  | append_singleton b x ih =>
    have hhalf : (2 * num b + x.toNat) / 2 = num b := by
      have := x.toNat_lt
      omega
    have hlast : decide ((2 * num b + x.toNat) % 2 = 1) = x := by cases x <;> simp
    rw [List.length_append, List.length_singleton, binW_succ, num_append_singleton, hhalf, hlast, ih]

theorem lt_two_pow_bitlen (n : Nat) : n < 2 ^ bitlen n := bitlen_le_iff.mp le_rfl

theorem bitlen_pos {n : Nat} (h : 1 ≤ n) : 1 ≤ bitlen n := lt_bitlen_iff.mpr (by simpa using h)

theorem two_pow_bitlen_sub_one_le {n : Nat} (h : 1 ≤ n) : 2 ^ (bitlen n - 1) ≤ n :=
  lt_bitlen_iff.mp (Nat.sub_lt (bitlen_pos h) Nat.one_pos)

/-- Settles O22. -/
theorem operatorsMeetTheirDefinitions : Obligations.OperatorsMeetTheirDefinitions :=
  ⟨fun _ => isPow2_iff,
    ⟨rfl, fun _ hn => ⟨bitlen_pos hn, two_pow_bitlen_sub_one_le hn, lt_two_pow_bitlen _⟩⟩,
    fun w v hv => ⟨binW_length w v, num_binW hv⟩, binW_num, fun _ _ => bitsOf_eq_some_iff⟩

end Sys2Proof.Machine
end

section
/-!
PROOFS. The tables of 41_hamming.md R85 to R87: the ranges of `r(m)`, the length of a codeword between two powers of
two, and the data positions in order. O24, O25, O26.
-/

namespace Sys2Proof.Machine

/-- More parity positions than enough are enough. -/
theorem parity_suffices_mono {m r r' : Nat} (h : m + r + 1 ≤ 2 ^ r) (hr : r ≤ r') : m + r' + 1 ≤ 2 ^ r' := by
  induction hr with
  | refl => exact h
  | step _ ih =>
    rw [Nat.pow_succ]
    omega

/-- `r(m)` parity positions suffice and no fewer (41_hamming.md R85). -/
theorem parityCount_le_iff {m t : Nat} : parityCount m ≤ t ↔ m + t + 1 ≤ 2 ^ t := by
  obtain ⟨henough, hleast⟩ := parityCount_spec m
  refine ⟨parity_suffices_mono henough, fun h => ?_⟩
  by_contra hlt
  have := hleast t (by omega)
  omega

/-- The range of data lengths with `t` parity positions, one after another from the least that has any. -/
theorem parityCount_eq_iff {m t : Nat} (ht : 1 ≤ t) :
    parityCount m = t ↔ 2 ^ (t - 1) + 1 ≤ m + t ∧ m + t + 1 ≤ 2 ^ t := by
  obtain ⟨u, rfl⟩ : ∃ u, t = u + 1 := ⟨t - 1, by omega⟩
  have hle := parityCount_le_iff (m := m) (t := u + 1)
  have hlt := parityCount_le_iff (m := m) (t := u)
  rw [Nat.add_sub_cancel]
  omega

theorem parityCount_ne_one (m : Nat) : parityCount m ≠ 1 := by
  intro h
  have := (parityCount_eq_iff le_rfl).mp h
  omega

/-- Settles O24. -/
theorem parityCountIsMinimal : Obligations.ParityCountIsMinimal :=
  ⟨parityCount_spec, fun _ _ ht => parityCount_eq_iff (by omega), parityCount_ne_one, rfl⟩

theorem parityCount_pos {m : Nat} (hm : 1 ≤ m) : 1 ≤ parityCount m := by
  have h0 := parityCount_le_iff (m := m) (t := 0)
  omega

/-- The length of the codeword of a non-empty string lies strictly between two powers of two. -/
theorem codeword_length_bounds {m : Nat} (hm : 1 ≤ m) :
    2 ^ (parityCount m - 1) < m + parityCount m ∧ m + parityCount m < 2 ^ parityCount m :=
  (parityCount_eq_iff (parityCount_pos hm)).mp rfl

theorem isPow2_codeword_length (m : Nat) : isPow2 (m + parityCount m) = false := by
  rcases Nat.eq_zero_or_pos m with rfl | hm
  · rfl
  · refine Bool.eq_false_iff.mpr fun h => ?_
    obtain ⟨t, ht⟩ := isPow2_iff.mp h
    obtain ⟨hlo, hhi⟩ := codeword_length_bounds hm
    rw [ht, Nat.pow_lt_pow_iff_right one_lt_two] at hlo hhi
    omega

/-- Settles O25. -/
theorem codewordGeometry : Obligations.CodewordGeometry := fun m =>
  ⟨bitlen_codeword m, dataPositions_codeword_length m, fun hm => ⟨isPow2_codeword_length m, codeword_length_bounds hm⟩⟩

theorem dataPositions_sortedLT (n : Nat) : (dataPositions n).Pairwise (· < ·) :=
  List.Pairwise.filter _ List.pairwise_lt_range'

theorem isPow2_dpos (j : Nat) : isPow2 (dpos j) = false := by
  have hj := lt_dataPositions_length j
  rw [← dataPositions_getElem hj]
  exact (mem_dataPositions.mp (List.getElem_mem hj)).2

theorem dpos_strictMono : StrictMono dpos := strictMono_nat_of_lt_succ fun j => by
  have hj := lt_dataPositions_length (j + 1)
  rw [← dataPositions_getElem hj, ← dataPositions_getElem (Nat.lt_of_succ_lt hj)]
  exact List.pairwise_iff_getElem.mp (dataPositions_sortedLT _) _ _ _ _ (Nat.lt_succ_self j)

/-- Every positive integer that is no power of two is some `dpos(j)`. -/
theorem exists_dpos_eq {k : Nat} (hk : 1 ≤ k) (hpow : isPow2 k = false) : ∃ j, dpos j = k := by
  obtain ⟨j, hj, hjk⟩ := List.mem_iff_getElem.mp (mem_dataPositions.mpr ⟨⟨hk, le_rfl⟩, hpow⟩)
  exact ⟨j, (dataPositions_getElem hj).symm.trans hjk⟩

/-- Settles O26: a number between two consecutive values would have its index between theirs. -/
theorem dataPositionsAreTheNonPowersInOrder : Obligations.DataPositionsAreTheNonPowersInOrder := by
  refine ⟨by decide, fun j => ⟨isPow2_dpos j, dpos_strictMono (Nat.lt_succ_self j), fun k hlo hhi => ?_⟩⟩
  by_contra hpow
  obtain ⟨i, rfl⟩ := exists_dpos_eq (Nat.one_le_of_lt hlo) (by simpa using hpow)
  rw [dpos_strictMono.lt_iff_lt] at hlo hhi
  omega

end Sys2Proof.Machine
end

section
/-!
PROOFS. HENC is linear (41_hamming.md R90): the placement is, one XOR over positions is, and so is every turn of the
parity loop. O28.
-/

namespace Sys2Proof.Machine

theorem bitAt_zipWith_xor {u v : BitString} (h : u.length = v.length) (k : Nat) :
    bitAt (List.zipWith Bool.xor u v) k = (bitAt u k ^^ bitAt v k) := by
  unfold bitAt
  rcases lt_or_ge (k - 1) u.length with hk | hk
  · have hk' : k - 1 < v.length := h ▸ hk
    simp [List.getD, hk, hk']
  · have hk' : v.length ≤ k - 1 := h ▸ hk
    simp [List.getD, hk, hk']

theorem xorOver_zipWith_xor {u v : BitString} (h : u.length = v.length) (ks : List Nat) :
    xorOver (List.zipWith Bool.xor u v) ks = (xorOver u ks ^^ xorOver v ks) := by
  induction ks using List.reverseRecOn with
  | nil => rfl
  | append_singleton ks k ih =>
    simp only [xorOver_append_singleton, ih, bitAt_zipWith_xor h, Bool.xor_assoc, Bool.xor_left_comm (xorOver v ks)]

theorem setAt_zipWith_xor (u v : BitString) (k : Nat) (x y : Bit) :
    setAt (List.zipWith Bool.xor u v) k (x ^^ y) = List.zipWith Bool.xor (setAt u k x) (setAt v k y) := by
  unfold setAt
  generalize k - 1 = i
  induction u generalizing v i with
  | nil => rfl
  | cons a u ih =>
    cases v with
    | nil => cases i <;> rfl
    | cons b v =>
      cases i with
      | zero => rfl
      | succ i => simp [ih]

theorem placeFrom_zipWith_xor (ks : List Nat) {a b : BitString} (h : a.length = b.length) :
    placeFrom ks (List.zipWith Bool.xor a b) = List.zipWith Bool.xor (placeFrom ks a) (placeFrom ks b) := by
  induction ks generalizing a b with
  | nil => rfl
  | cons k ks ih =>
    cases hp : isPow2 k with
    | true => simp [placeFrom, hp, ih h]
    | false =>
      match a, b, h with
      | [], [], _ => simpa [placeFrom, hp] using ih (a := []) (b := []) rfl
      | x :: a, y :: b, h =>
        have htail := ih (Nat.succ.inj h)
        simp [placeFrom, hp, htail]

theorem fixParity_zipWith_xor {u v : BitString} (h : u.length = v.length) (n i : Nat) :
    fixParity n (List.zipWith Bool.xor u v) i = List.zipWith Bool.xor (fixParity n u i) (fixParity n v i) := by
  simp only [fixParity_eq_setAt, xorOver_zipWith_xor h, setAt_zipWith_xor]

theorem parityLoop_zipWith_xor (n : Nat) (is : List Nat) {u v : BitString} (h : u.length = v.length) :
    is.foldl (fixParity n) (List.zipWith Bool.xor u v) =
      List.zipWith Bool.xor (is.foldl (fixParity n) u) (is.foldl (fixParity n) v) := by
  induction is generalizing u v with
  | nil => rfl
  | cons i is ih =>
    simp only [List.foldl_cons, fixParity_zipWith_xor h]
    exact ih (by simpa using h)

/-- Settles O28: both loops are linear, and data of one length go through the same turns. -/
theorem hencIsLinear : Obligations.HencIsLinear := by
  intro a b h
  have hlen : (List.zipWith Bool.xor a b).length = b.length := by simp [h]
  simp only [henc, hlen, h, placeFrom_zipWith_xor _ h]
  exact parityLoop_zipWith_xor _ _ (by simp)

end Sys2Proof.Machine
end

section
/-!
PROOFS. The syndrome (41_hamming.md R93, R94): its binary digits are the checks, a flip at position `p` xors it with
`p`, and the correcting flip undoes the flip it names. O30, O32, O34, O35.
-/

namespace Sys2Proof.Machine

/-- The sum of `2^i` over the `i < t` at which `f` holds. -/
def bitSum (f : Nat → Bool) (t : Nat) : Nat := (List.range t).foldl (fun s i => if f i then s + 2 ^ i else s) 0

theorem syndrome_eq_bitSum (cw : BitString) : syndrome cw = bitSum (checkFails cw) (bitlen cw.length) := rfl

theorem bitSum_succ (f : Nat → Bool) (t : Nat) :
    bitSum f (t + 1) = if f t then 2 ^ t + bitSum f t else bitSum f t := by
  simp [bitSum, List.range_succ, Nat.add_comm]

theorem bitSum_lt (f : Nat → Bool) (t : Nat) : bitSum f t < 2 ^ t := by
  induction t with
  | zero => exact Nat.one_pos
  | succ t ih =>
    rw [bitSum_succ, Nat.pow_succ]
    split <;> omega

theorem bitSum_testBit (f : Nat → Bool) (t i : Nat) : (bitSum f t).testBit i = (decide (i < t) && f i) := by
  induction t with
  | zero => simp [bitSum]
  | succ t ih =>
    rw [bitSum_succ]
    rcases lt_trichotomy i t with hlt | rfl | hgt
    · have hlt' : i < t + 1 := Nat.lt_succ_of_lt hlt
      split
      · rw [Nat.testBit_two_pow_add_gt hlt, ih]
        simp [hlt, hlt']
      · rw [ih]
        simp [hlt, hlt']
    · cases hf : f i <;> simp [ih, hf, Nat.testBit_two_pow_add_eq]
    · have hsmall : (if f t then 2 ^ t + bitSum f t else bitSum f t) < 2 ^ i := by
        have hpow : 2 ^ (t + 1) ≤ 2 ^ i := Nat.pow_le_pow_right two_pos hgt
        exact (bitSum_succ f t ▸ bitSum_lt f (t + 1)).trans_le hpow
      rw [Nat.testBit_lt_two_pow hsmall]
      simp; omega

/-- Bit `i` of the syndrome says whether check `i` disagrees. -/
theorem syndrome_testBit (cw : BitString) (i : Nat) :
    (syndrome cw).testBit i = (decide (i < bitlen cw.length) && checkFails cw i) := by
  rw [syndrome_eq_bitSum, bitSum_testBit]

theorem syndrome_lt (cw : BitString) : syndrome cw < 2 ^ bitlen cw.length := bitSum_lt _ _

theorem bitAt_flipAt {cw : BitString} {p k : Nat} (hp : 1 ≤ p) (hk : 1 ≤ k) (hkn : k ≤ cw.length) :
    bitAt (flipAt cw (p - 1)) k = (bitAt cw k ^^ decide (k = p)) := by
  have heq : p - 1 = k - 1 ↔ k = p := by omega
  rw [bitAt, flipAt_getD _ _ (by omega), bitAt, decide_eq_decide.mpr heq]

/-- A flip at `p` turns exactly the checks that cover `p` (41_hamming.md R88). -/
theorem checkFails_flipAt {cw : BitString} {p : Nat} (hp : 1 ≤ p) (hpn : p ≤ cw.length) (i : Nat) :
    checkFails (flipAt cw (p - 1)) i = (checkFails cw i ^^ p.testBit i) := by
  have hbit : ∀ k ∈ cover i cw.length, bitAt (flipAt cw (p - 1)) k = (bitAt cw k ^^ decide (k = p)) := fun k hk =>
    have ⟨⟨hk1, hkn⟩, _⟩ := mem_cover.mp hk
    bitAt_flipAt hp hk1 hkn
  rw [checkFails, checkFails, flipAt_length]
  cases hcov : p.testBit i with
  | false =>
    rw [Bool.xor_false]
    refine xorOver_congr fun k hk => ?_
    have hne : k ≠ p := by
      rintro rfl
      simp [(mem_cover.mp hk).2] at hcov
    rw [hbit k hk, decide_eq_false hne, Bool.xor_false]
  | true =>
    have hmem : p ∈ cover i cw.length := mem_cover.mpr ⟨⟨hp, hpn⟩, hcov⟩
    have hrest : xorOver (flipAt cw (p - 1)) ((cover i cw.length).filter fun k => decide (k ≠ p)) =
        xorOver cw ((cover i cw.length).filter fun k => decide (k ≠ p)) := by
      refine xorOver_congr fun k hk => ?_
      obtain ⟨hk, hne⟩ := List.mem_filter.mp hk
      rw [hbit k hk, decide_eq_false (of_decide_eq_true hne), Bool.xor_false]
    rw [xorOver_eq_xor_filter (cover_nodup i _) hmem, xorOver_eq_xor_filter (cover_nodup i _) hmem cw, hrest,
      hbit p hmem]
    simp

/-- A flip at `p` xors the syndrome with `p` (41_hamming.md R100). -/
theorem syndrome_flipAt {cw : BitString} {p : Nat} (hp : 1 ≤ p) (hpn : p ≤ cw.length) :
    syndrome (flipAt cw (p - 1)) = syndrome cw ^^^ p := by
  refine Nat.eq_of_testBit_eq fun i => ?_
  rw [Nat.testBit_xor, syndrome_testBit, syndrome_testBit, checkFails_flipAt hp hpn, flipAt_length]
  by_cases hi : i < bitlen cw.length
  · simp [hi]
  · have hsmall : p < 2 ^ i := hpn.trans_lt (bitlen_le_iff.mp (not_lt.mp hi))
    simp [hi, Nat.testBit_lt_two_pow hsmall]

theorem flipPositions_append_singleton (cw : BitString) (ps : List Nat) (p : Nat) :
    flipPositions cw (ps ++ [p]) = flipAt (flipPositions cw ps) (p - 1) := by
  simp [flipPositions]

theorem xorAll_append_singleton (ps : List Nat) (p : Nat) : xorAll (ps ++ [p]) = xorAll ps ^^^ p := by
  simp [xorAll]

@[simp] theorem flipPositions_length (cw : BitString) (ps : List Nat) :
    (flipPositions cw ps).length = cw.length := by
  induction ps using List.reverseRecOn with
  | nil => rfl
  | append_singleton ps p ih => rw [flipPositions_append_singleton, flipAt_length, ih]

/-- Flips at several positions, one after another, xor the syndrome with all of them (41_hamming.md R102). -/
theorem syndrome_flipPositions {cw : BitString} {ps : List Nat} (h : ∀ p ∈ ps, 1 ≤ p ∧ p ≤ cw.length) :
    syndrome (flipPositions cw ps) = syndrome cw ^^^ xorAll ps := by
  induction ps using List.reverseRecOn with
  | nil => exact (Nat.xor_zero _).symm
  | append_singleton ps p ih =>
    obtain ⟨hps, hp⟩ := List.forall_mem_append.mp h
    obtain ⟨hp1, hpn⟩ := hp p (List.mem_singleton_self p)
    rw [flipPositions_append_singleton, syndrome_flipAt hp1 (by rwa [flipPositions_length]), ih hps,
      xorAll_append_singleton, Nat.xor_assoc]

/-- On a codeword the syndrome is what the flips alone make of it. -/
theorem syndrome_flipPositions_henc {d : BitString} {ps : List Nat}
    (h : ∀ p ∈ ps, 1 ≤ p ∧ p ≤ d.length + parityCount d.length) :
    syndrome (flipPositions (henc d) ps) = xorAll ps := by
  rw [syndrome_flipPositions (by rwa [henc_length]), syndrome_henc, Nat.zero_xor]

/-- The correcting flip is a flip at the position the syndrome names, when the word has it (41_hamming.md R94). -/
theorem correct_eq_ite (cw : BitString) (s : Nat) :
    correct cw s = if 1 ≤ s ∧ s ≤ cw.length then flipAt cw (s - 1) else cw := by
  simp only [correct, Nat.one_le_iff_ne_zero]
  rfl

/-- A second flip undoes the first. -/
theorem flipAt_flipAt (cw : BitString) (i : Nat) : flipAt (flipAt cw i) i = cw := by
  refine List.ext_getElem? fun j => ?_
  rcases lt_or_ge j cw.length with hj | hj
  · rw [flipAt_getElem? _ _ _ (by simpa), flipAt_getD _ _ hj, Bool.xor_assoc, Bool.xor_self, Bool.xor_false,
      List.getD_eq_getElem _ _ hj, List.getElem?_eq_getElem hj]
  · rw [List.getElem?_eq_none hj, List.getElem?_eq_none (by simpa)]

/-- A codeword with one position flipped decodes to its data, the position reported (41_hamming.md R100). -/
theorem hdecWord_flipAt_henc {d : BitString} {p : Nat} (hp : 1 ≤ p) (hpn : p ≤ d.length + parityCount d.length) :
    hdecWord (flipAt (henc d) (p - 1)) = .hdec d p := by
  have hpn' : p ≤ (henc d).length := by rwa [henc_length]
  rw [hdecWord, syndrome_flipAt hp hpn', syndrome_henc, Nat.zero_xor, correct_eq_ite,
    if_pos ⟨hp, by rwa [flipAt_length]⟩, flipAt_flipAt, extractData_henc]

/-- The data of a word of `n` bits are `n - bitlen(n)` (41_hamming.md R95). -/
theorem extractData_length (cw : BitString) : (extractData cw).length = cw.length - bitlen cw.length := by
  have := dataPositions_length_add_bitlen cw.length
  rw [extractData_eq_map, List.length_map]
  omega

theorem extractData_getElem? {cw : BitString} {j : Nat} (h : j < (extractData cw).length) :
    (extractData cw)[j]? = some (bitAt cw (dpos j)) := by
  rw [List.getElem?_eq_getElem h, extractData_getElem h]

/-- A flip of a parity position changes no data (41_hamming.md R94). -/
theorem extractData_correct_of_isPow2 {s : Nat} (h : isPow2 s = true) (cw : BitString) :
    extractData (correct cw s) = extractData cw := by
  rw [extractData_eq_map, extractData_eq_map, correct_length]
  refine List.map_congr_left fun k hk => ?_
  obtain ⟨⟨hk1, -⟩, hpow⟩ := mem_dataPositions.mp hk
  unfold correct
  split
  case isFalse => rfl
  case isTrue hs =>
    refine bitAt_setAt_of_ne (Nat.one_le_iff_ne_zero.mpr hs.1) hk1 ?_ cw _
    rintro rfl
    rw [h] at hpow
    cases hpow

theorem syndrome_eq_zero_iff {cw : BitString} :
    syndrome cw = 0 ↔ ∀ i, i < bitlen cw.length → coveredOnes cw i % 2 = 0 := by
  have hcheck : ∀ i, checkFails cw i = false ↔ coveredOnes cw i % 2 = 0 := fun i => by
    rw [checkFails_eq_coveredOnes, decide_eq_false_iff_not]
    omega
  refine ⟨fun h i hi => ?_, fun h => syndrome_eq_zero fun i hi => (hcheck i).mpr (h i hi)⟩
  have hbit := syndrome_testBit cw i
  rw [h, Nat.zero_testBit, decide_eq_true hi, Bool.true_and] at hbit
  exact (hcheck i).mp hbit.symm

/-- Settles O30: HDEC delivers the syndrome, and the data of the word corrected as it says. -/
theorem hdecFollowsTheSyndrome : Obligations.HdecFollowsTheSyndrome := by
  intro cw s hc ho hne
  refine ⟨extractData (correct cw (syndrome cw)), syndrome cw, exec_hdec_txt hne hc ho, syndrome_lt cw, fun i hi => ?_,
    syndrome_eq_zero_iff, by rw [extractData_length, correct_length], fun j hj => ?_, fun hpow j hj => ?_⟩
  · rw [syndrome_testBit, checkFails_eq_coveredOnes, decide_eq_true hi, Bool.true_and]
  · rw [extractData_getElem? hj, correct_eq_ite]
  · rw [extractData_correct_of_isPow2 hpow] at hj ⊢
    exact extractData_getElem? hj

/-- HDEC completes on a codeword with flips, when it has a position to flip or any data at all. -/
theorem exec_hdec_of_codeword_length {d w : BitString} {s : State} (hw : w.length = d.length + parityCount d.length)
    (hpos : 1 ≤ d.length + parityCount d.length) (hc : configLegal s.cfg = true)
    (ho : lengthsFit s.cfg [d.length + parityCount d.length] = true) :
    exec (.hdec (txt w)) s = .next (s.respond (.ok (hdecWord w))) :=
  exec_hdec_txt (List.ne_nil_of_length_pos (hw ▸ hpos)) hc (hw ▸ ho)

/-- Settles O32. -/
theorem everySingleErrorIsCorrected : Obligations.EverySingleErrorIsCorrected := by
  intro d p s hc ho hp hpn
  rw [exec_hdec_of_codeword_length (by simp) (hp.trans hpn) hc ho, hdecWord_flipAt_henc hp hpn]
  rfl

/-- Settles O34. -/
theorem syndromeIsTheXorOfErrorPositions : Obligations.SyndromeIsTheXorOfErrorPositions := by
  intro d ps s hd hc ho hps
  have hpos := List.length_pos_of_ne_nil hd
  rw [exec_hdec_of_codeword_length (by simp) (Nat.le_add_right_of_le hpos) hc ho, hdecWord,
    syndrome_flipPositions_henc hps]
  exact ⟨_, rfl⟩

/-- Settles O35: two distinct positions have a syndrome other than 0, which names the third flip if the word has it. -/
theorem twoErrorsAreSilentlyMiscorrected : Obligations.TwoErrorsAreSilentlyMiscorrected := by
  intro d p q s hc ho hp hpq hq
  have hne : p ^^^ q ≠ 0 := fun h => hpq.ne (Nat.xor_eq_zero_iff.mp h)
  have hrange : ∀ k ∈ [p, q], 1 ≤ k ∧ k ≤ d.length + parityCount d.length := by
    simp only [List.forall_mem_cons, List.not_mem_nil, false_imp_iff, implies_true, and_true]
    omega
  have hsyn : syndrome (flipPositions (henc d) [p, q]) = p ^^^ q := by
    simpa [xorAll] using syndrome_flipPositions_henc hrange
  refine ⟨hne, ?_⟩
  rw [exec_hdec_of_codeword_length (by simp) (by omega) hc ho, hdecWord, hsyn, correct_eq_ite, flipPositions_length,
    henc_length]
  simp only [Nat.one_le_iff_ne_zero, hne, ne_eq, not_false_eq_true, true_and]
  split <;> rfl

end Sys2Proof.Machine
end

section
/-!
PROOFS. The scan of STUFF and the counting definition of its markers (42_bitstuffer.md R106 to R108) run together: one
induction over the input, which every invariant of the scan then instantiates. O36.
-/

namespace Sys2Proof.Machine

/-- How many 1s the string ends in. -/
def trailingOnes (x : BitString) : Nat := (x.reverse.takeWhile id).length

@[simp] theorem trailingOnes_append_true (x : BitString) : trailingOnes (x ++ [true]) = trailingOnes x + 1 := by
  simp [trailingOnes]

@[simp] theorem trailingOnes_append_false (x : BitString) : trailingOnes (x ++ [false]) = 0 := by
  simp [trailingOnes]

theorem onesEndingAt_eq_trailingOnes (x : BitString) (i : Nat) :
    onesEndingAt x i = trailingOnes (x.take (i + 1)) := rfl

/-- One more bit adds a marker after it or none; the earlier ones stay. -/
theorem markerSites_append_singleton (x : BitString) (b : Bit) :
    markerSites (x ++ [b]) = markerSites x ++
      if 0 < trailingOnes (x ++ [b]) ∧ trailingOnes (x ++ [b]) % 5 = 0 then [x.length] else [] := by
  have hearlier : ∀ i ∈ List.range x.length, onesEndingAt (x ++ [b]) i = onesEndingAt x i := by
    intro i hi
    have hi' : i + 1 ≤ x.length := List.mem_range.mp hi
    rw [onesEndingAt_eq_trailingOnes, List.take_append_of_le_length hi', onesEndingAt_eq_trailingOnes]
  have hlast : onesEndingAt (x ++ [b]) x.length = trailingOnes (x ++ [b]) := by
    rw [onesEndingAt_eq_trailingOnes, List.take_of_length_le (by simp)]
  have hfilter : (List.range x.length).filter
      (fun i => decide (0 < onesEndingAt (x ++ [b]) i ∧ onesEndingAt (x ++ [b]) i % 5 = 0)) = markerSites x :=
    List.filter_congr fun i hi => by rw [hearlier i hi]
  rw [markerSites, List.length_append, List.length_singleton, List.range_succ, List.filter_append, hfilter]
  simp only [List.filter_cons, List.filter_nil, hlast, decide_eq_true_eq]

theorem stuffScan_append_singleton (x : BitString) (b : Bit) :
    stuffScan (x ++ [b]) = stuffBit (stuffScan x) b := by
  simp [stuffScan]

/-- The counter of the scan is the length of the current run of 1s, less the fives already marked. -/
theorem stuffScan_cnt (x : BitString) : (stuffScan x).cnt = trailingOnes x % 5 := by
  induction x using List.reverseRecOn with
  | nil => rfl
  | append_singleton x b ih =>
    rw [stuffScan_append_singleton]
    cases b with
    | false => simp
    | true =>
      by_cases h5 : (stuffScan x).cnt + 1 = 5
      · rw [stuffBit_true_of_eq h5, trailingOnes_append_true]
        show 0 = _
        omega
      · rw [stuffBit_true_of_ne h5, trailingOnes_append_true]
        show _ + 1 = _
        omega

/-- Induction over the input of STUFF, with its marker sites and the registers of the scan: a 0, a 1 that is not the
fifth, a fifth 1. -/
theorem stuffScan_induction {P : BitString → List Nat → StuffRegs → Prop} (nil : P [] [] {})
    (zero : ∀ x, P x (markerSites x) (stuffScan x) →
      P (x ++ [false]) (markerSites x) { out := (stuffScan x).out ++ [false], cnt := 0, last := (stuffScan x).last })
    (one : ∀ x, P x (markerSites x) (stuffScan x) → (stuffScan x).cnt + 1 < 5 →
      P (x ++ [true]) (markerSites x)
        { out := (stuffScan x).out ++ [true], cnt := (stuffScan x).cnt + 1, last := (stuffScan x).last })
    (fifth : ∀ x, P x (markerSites x) (stuffScan x) → (stuffScan x).cnt + 1 = 5 →
      P (x ++ [true]) (markerSites x ++ [x.length])
        { out := (stuffScan x).out ++ [true] ++ [false], cnt := 0, last := some ((stuffScan x).out.length + 1) })
    (x : BitString) : P x (markerSites x) (stuffScan x) := by
  induction x using List.reverseRecOn with
  | nil => exact nil
  | append_singleton x b ih =>
    have hcnt := stuffScan_cnt x
    rw [markerSites_append_singleton, stuffScan_append_singleton]
    cases b with
    | false => simpa using zero x ih
    | true =>
      by_cases h5 : (stuffScan x).cnt + 1 = 5
      · rw [stuffBit_true_of_eq h5, trailingOnes_append_true, if_pos (by omega)]
        simpa using fifth x ih h5
      · rw [stuffBit_true_of_ne h5, trailingOnes_append_true, if_neg (by omega), List.append_nil]
        exact one x ih (by omega)

/-- The output is longer than the input by the markers. -/
theorem stuffScan_out_length (x : BitString) : (stuffScan x).out.length = x.length + (markerSites x).length := by
  induction x using stuffScan_induction with
  | nil => rfl
  | zero x ih | one x ih _ | fifth x ih _ =>
    simp [ih]
    omega

/-- The register `last` holds where the latest marker stands (42_bitstuffer.md R108). -/
theorem stuffScan_last (x : BitString) :
    (stuffScan x).last = (markerSites x).getLast?.map fun a => a + (markerSites x).length := by
  induction x using stuffScan_induction with
  | nil => rfl
  | zero x ih | one x ih _ => exact ih
  | fifth x _ _ =>
    simp [stuffScan_out_length]
    omega

theorem lt_length_of_mem_markerSites {x : BitString} {a : Nat} (h : a ∈ markerSites x) : a < x.length :=
  List.mem_range.mp (List.mem_of_mem_filter h)

/-- The bits of a string with a 0 behind each bit whose index is listed. -/
def withMarkers (sites : List Nat) (x : BitString) : BitString :=
  (List.range x.length).flatMap fun i => if i ∈ sites then [x.getD i false, false] else [x.getD i false]

/-- A further bit goes behind what the earlier ones gave, whatever the list says of its own index. -/
theorem withMarkers_append_singleton {sites sites' : List Nat} {x : BitString}
    (h : ∀ i < x.length, i ∈ sites' ↔ i ∈ sites) (b : Bit) :
    withMarkers sites' (x ++ [b]) = withMarkers sites x ++ if x.length ∈ sites' then [b, false] else [b] := by
  have hearlier : ∀ i ∈ List.range x.length,
      (if i ∈ sites' then [(x ++ [b]).getD i false, false] else [(x ++ [b]).getD i false]) =
        if i ∈ sites then [x.getD i false, false] else [x.getD i false] := by
    intro i hi
    have hi' := List.mem_range.mp hi
    rw [List.getD_append _ _ _ _ hi']
    exact if_congr (h i hi') rfl rfl
  have hlast : (x ++ [b]).getD x.length false = b := by simp
  rw [withMarkers, List.length_append, List.length_singleton, List.range_succ, List.flatMap_append,
    List.flatMap_congr hearlier, List.flatMap_singleton, hlast, withMarkers]

/-- The output of the scan is the input with a marker behind each site (42_bitstuffer.md R106). -/
theorem stuffScan_out_eq_withMarkers (x : BitString) : (stuffScan x).out = withMarkers (markerSites x) x := by
  induction x using stuffScan_induction with
  | nil => rfl
  | zero x ih | one x ih _ =>
    have hnew : x.length ∉ markerSites x := fun h => lt_irrefl _ (lt_length_of_mem_markerSites h)
    rw [withMarkers_append_singleton fun _ _ => Iff.rfl, if_neg hnew, ← ih]
  | fifth x ih _ =>
    have hold : ∀ i < x.length, i ∈ markerSites x ++ [x.length] ↔ i ∈ markerSites x := fun i hi => by simp [hi.ne]
    rw [withMarkers_append_singleton hold, if_pos (by simp), ← ih]
    simp

/-- Five 1s in a row. -/
def fiveOnes : BitString := [true, true, true, true, true]

/-- Five 1s in a row stand at index `k`. -/
def FiveOnesAt (y : BitString) (k : Nat) : Prop := ∃ front back, y = front ++ fiveOnes ++ back ∧ front.length = k

theorem take_drop_eq_fiveOnes_iff {y : BitString} {k : Nat} :
    (y.drop k).take 5 = [true, true, true, true, true] ↔ FiveOnesAt y k := by
  constructor
  · intro h
    have hk : k ≤ y.length := by
      by_contra hlt
      simp [List.drop_eq_nil_of_le (Nat.le_of_not_le hlt)] at h
    refine ⟨y.take k, (y.drop k).drop 5, ?_, List.length_take_of_le hk⟩
    rw [fiveOnes, ← h, List.append_assoc, List.take_append_drop, List.take_append_drop]
  · rintro ⟨front, back, rfl, rfl⟩
    simp [fiveOnes]

theorem FiveOnesAt.append {y : BitString} {k : Nat} (h : FiveOnesAt y k) (z : BitString) : FiveOnesAt (y ++ z) k := by
  obtain ⟨front, back, rfl, hk⟩ := h
  exact ⟨front, back ++ z, by simp, hk⟩

theorem getElem?_append_of_eq_some {y : BitString} {k : Nat} {b : Bit} (h : y[k]? = some b) (z : BitString) :
    (y ++ z)[k]? = some b := by
  rwa [List.getElem?_append_left (List.getElem?_eq_some_iff.mp h).1]

theorem le_takeWhile_length_iff {n : Nat} {z : BitString} :
    n ≤ (z.takeWhile id).length ↔ List.replicate n true <+: z := by
  induction z generalizing n with
  | nil => simp
  | cons b z ih =>
    cases n with
    | zero => simp
    | succ n => cases b <;> simp [List.replicate_succ, ih]

/-- A string ends in `n` 1s exactly when at least `n` 1s are counted from its end. -/
theorem replicate_suffix_iff {n : Nat} {y : BitString} : List.replicate n true <:+ y ↔ n ≤ trailingOnes y := by
  rw [trailingOnes, le_takeWhile_length_iff, ← List.reverse_prefix, List.reverse_replicate]

/-- Five 1s in a row in a string with one more bit stand in the string, or end with that bit, a 1. -/
theorem FiveOnesAt.of_append_singleton {y : BitString} {b : Bit} {k : Nat} (h : FiveOnesAt (y ++ [b]) k) :
    FiveOnesAt y k ∨ 5 ≤ trailingOnes (y ++ [b]) ∧ k + 5 = y.length + 1 := by
  obtain ⟨front, back, hy, hk⟩ := h
  rcases List.eq_nil_or_concat back with rfl | ⟨back, c, rfl⟩
  · have hsuffix : List.replicate 5 true <:+ y ++ [b] := ⟨front, by simpa [fiveOnes] using hy.symm⟩
    have hlen := congrArg List.length hy
    simp [fiveOnes] at hlen
    exact .inr ⟨replicate_suffix_iff.mp hsuffix, by omega⟩
  · rw [List.concat_eq_append, ← List.append_assoc] at hy
    exact .inl ⟨front, back, (List.append_inj' hy rfl).1, hk⟩

/-- Between input bits the output ends in as many 1s as the scan has counted. -/
theorem trailingOnes_stuffScan_out (x : BitString) : trailingOnes (stuffScan x).out = (stuffScan x).cnt := by
  induction x using stuffScan_induction with
  | nil => rfl
  | zero x _ => exact trailingOnes_append_false _
  | one x ih _ => rw [trailingOnes_append_true, ih]
  | fifth x _ _ => exact trailingOnes_append_false _

/-- At index `p` stands a 0 behind five 1s (42_bitstuffer.md R107). -/
def ZeroBehindFiveOnes (y : BitString) (p : Nat) : Prop := 5 ≤ p ∧ y[p]? = some false ∧ FiveOnesAt y (p - 5)

theorem ZeroBehindFiveOnes.append {y : BitString} {p : Nat} (h : ZeroBehindFiveOnes y p) (z : BitString) :
    ZeroBehindFiveOnes (y ++ z) p := by
  obtain ⟨h5, hzero, hones⟩ := h
  exact ⟨h5, getElem?_append_of_eq_some hzero z, hones.append z⟩

/-- The marker in `last` is a 0 behind five 1s. -/
theorem stuffScan_last_spec {x : BitString} {p : Nat} (h : (stuffScan x).last = some p) :
    ZeroBehindFiveOnes (stuffScan x).out p := by
  induction x using stuffScan_induction with
  | nil => cases h
  | zero x ih | one x ih _ => exact (ih h).append _
  | fifth x _ h5 =>
    obtain rfl : (stuffScan x).out.length + 1 = p := Option.some.inj h
    have hrun : 5 ≤ trailingOnes ((stuffScan x).out ++ [true]) := by
      rw [trailingOnes_append_true, trailingOnes_stuffScan_out, h5]
    obtain ⟨front, hfront⟩ := replicate_suffix_iff.mpr hrun
    have hlen := congrArg List.length hfront
    simp at hlen
    exact ⟨by omega, by simp, front, [false], congrArg (· ++ [false]) hfront.symm, by omega⟩

/-- Settles O36: the result is the scan's, and the scan's invariants say what it is. -/
theorem stuffInsertsAfterEveryFifthOne : Obligations.StuffInsertsAfterEveryFifthOne := by
  intro bits s hc ho hr
  refine ⟨(stuffScan bits).out, (stuffScan bits).last, ?_, stuffScan_out_eq_withMarkers bits, stuffScan_last bits,
    fun p hp => ?_⟩
  · rw [exec_stuff]
    exact perform_ok hc ho (by rwa [resultLengths, stuffScan_out_length])
  · obtain ⟨h5, hzero, hones⟩ := stuffScan_last_spec hp
    exact ⟨h5, hzero, take_drop_eq_fiveOnes_iff.mpr hones⟩

end Sys2Proof.Machine
end

section
/-!
PROOFS. Six 1s never stand in a stuffed string, and five are followed by a marker (42_bitstuffer.md R112). O40.
-/

namespace Sys2Proof.Machine

/-- The 0 behind index `k + 4` is one of the markers at the given sites (42_bitstuffer.md R108). -/
def MarkerBehind (y : BitString) (sites : List Nat) (k : Nat) : Prop :=
  y[k + 5]? = some false ∧ ∃ t a, sites[t]? = some a ∧ k + 5 = a + t + 1

theorem MarkerBehind.append {y : BitString} {sites : List Nat} {k : Nat} (h : MarkerBehind y sites k) (z : BitString)
    (more : List Nat) : MarkerBehind (y ++ z) (sites ++ more) k := by
  obtain ⟨hzero, t, a, hsite, hk⟩ := h
  refine ⟨getElem?_append_of_eq_some hzero z, t, a, ?_, hk⟩
  rwa [List.getElem?_append_left (List.getElem?_eq_some_iff.mp hsite).1]

/-- Every five 1s the scan has put out have their marker. -/
theorem markerBehind_of_fiveOnesAt {x : BitString} {k : Nat} (h : FiveOnesAt (stuffScan x).out k) :
    MarkerBehind (stuffScan x).out (markerSites x) k := by
  induction x using stuffScan_induction with
  | nil =>
    obtain ⟨front, back, hnil, -⟩ := h
    simp [fiveOnes] at hnil
  | zero x ih =>
    rcases h.of_append_singleton with hold | ⟨hrun, -⟩
    · simpa using (ih hold).append [false] []
    · rw [trailingOnes_append_false] at hrun
      omega
  | one x ih hcnt =>
    rcases h.of_append_singleton with hold | ⟨hrun, -⟩
    · simpa using (ih hold).append [true] []
    · rw [trailingOnes_append_true, trailingOnes_stuffScan_out] at hrun
      omega
  | fifth x ih _ =>
    rcases h.of_append_singleton with h | ⟨hrun, -⟩
    · rcases h.of_append_singleton with hold | ⟨-, hend⟩
      · simpa using (ih hold).append [true, false] [x.length]
      · have hlen := stuffScan_out_length x
        exact ⟨by simp [hend], (markerSites x).length, x.length, by simp, by omega⟩
    · rw [trailingOnes_append_false] at hrun
      omega

/-- Six 1s in a row are five with a 1 behind them. -/
theorem exists_fiveOnesAt_of_hasSixOnes {y : BitString} (h : HasSixOnes y) :
    ∃ k, FiveOnesAt y k ∧ y[k + 5]? = some true := by
  obtain ⟨front, back, rfl⟩ := h
  refine ⟨front.length, ⟨front, true :: back, by simp [fiveOnes, List.replicate], rfl⟩, by simp⟩

theorem not_hasSixOnes_stuffScan_out (x : BitString) : ¬ HasSixOnes (stuffScan x).out := by
  intro h
  obtain ⟨k, hk, hone⟩ := exists_fiveOnesAt_of_hasSixOnes h
  obtain ⟨hzero, -⟩ := markerBehind_of_fiveOnesAt hk
  rw [hone] at hzero
  cases hzero

/-- Settles O40. -/
theorem stuffedStringsHoldNoSixOnes : Obligations.StuffedStringsHoldNoSixOnes := fun x =>
  ⟨not_hasSixOnes_stuffScan_out x, fun _ hk => markerBehind_of_fiveOnesAt (take_drop_eq_fiveOnes_iff.mp hk)⟩

end Sys2Proof.Machine
end

section
/-!
PROOFS. STUFF and DESTUFF read from the left, the run of 1s before the string given (42_bitstuffer.md R106, R109): how
many markers each run receives, what is dropped, and which strings destuffing and stuffing leave as they are. O37, O38,
O41.
-/

namespace Sys2Proof.Machine

/-- STUFF read directly, as `dropMarkers` reads DESTUFF: the first argument is the number of 1s in a row just copied. -/
def insertMarkers : Nat → BitString → BitString
  | _, [] => []
  | _, false :: x => false :: insertMarkers 0 x
  | c, true :: x => if c + 1 = 5 then true :: false :: insertMarkers 0 x else true :: insertMarkers (c + 1) x

/-- From any registers the scan puts out what the direct reading does. -/
theorem foldl_stuffBit_out (x : BitString) (w : StuffRegs) :
    (x.foldl stuffBit w).out = w.out ++ insertMarkers w.cnt x := by
  induction x generalizing w with
  | nil => simp [insertMarkers]
  | cons b x ih =>
    rw [List.foldl_cons, ih]
    cases b with
    | false => simp [insertMarkers]
    | true =>
      by_cases h5 : w.cnt + 1 = 5
      · simp [stuffBit_true_of_eq h5, insertMarkers, h5]
      · simp only [stuffBit_true_of_ne h5, insertMarkers, if_neg h5, List.append_assoc, List.singleton_append]

theorem stuffScan_out_eq_insertMarkers (x : BitString) : (stuffScan x).out = insertMarkers 0 x :=
  foldl_stuffBit_out x {}

theorem dropMarkers_fifth (b : Bit) (y : BitString) : dropMarkers 4 (true :: b :: y) = true :: dropMarkers 0 y := rfl

theorem dropMarkers_true_of_ne {c : Nat} (h : c ≠ 4) (y : BitString) :
    dropMarkers c (true :: y) = true :: dropMarkers (c + 1) y := by
  simp [dropMarkers, h]

/-- The last case of `dropMarkers` is a 1 that is not the fifth. -/
theorem ne_four_of_not_fifth {c : Nat} {y : BitString} (hend : c = 4 → y = [] → False)
    (hfifth : ∀ b y', c = 4 → y = b :: y' → False) : c ≠ 4 := by
  rintro rfl
  cases y with
  | nil => exact hend rfl rfl
  | cons b y => exact hfifth b y rfl rfl

/-- From any registers the scan keeps what the direct reading does; when a drop is owed, of the string without its first
bit. -/
theorem foldl_destuffBit_out (y : BitString) (w : DestuffRegs) :
    (y.foldl destuffBit w).out = w.out ++ dropMarkers w.cnt (if w.skip then y.tail else y) := by
  induction y generalizing w with
  | nil => simp [dropMarkers]
  | cons b y ih =>
    rw [List.foldl_cons, ih]
    cases hskip : w.skip with
    | true => simp [destuffBit_skip hskip]
    | false =>
      cases b with
      | false => simp [destuffBit_false hskip, dropMarkers]
      | true =>
        by_cases h5 : w.cnt + 1 = 5
        · have h4 : w.cnt = 4 := by omega
          cases y <;> simp [destuffBit_true_of_eq hskip h5, h4, dropMarkers]
        · have h4 : w.cnt ≠ 4 := by omega
          simp [destuffBit_true_of_ne hskip h5, dropMarkers_true_of_ne h4]

theorem destuff_eq_dropMarkers (y : BitString) : destuff y = dropMarkers 0 y := foldl_destuffBit_out y {}

theorem dropMarkers_length_le (c : Nat) (y : BitString) : (dropMarkers c y).length ≤ y.length := by
  induction c, y using dropMarkers.induct with
  | case1 c => simp [dropMarkers]
  | case2 c y ih => simpa [dropMarkers] using ih
  | case3 => simp [dropMarkers]
  | case4 b y ih =>
    rw [dropMarkers_fifth]
    simp only [List.length_cons]
    omega
  | case5 c y hend hfifth ih =>
    have h4 := ne_four_of_not_fifth hend hfifth
    simpa [dropMarkers_true_of_ne h4] using ih

/-- Settles O38: the direct reading is the scan's, and it is no longer than the operand. -/
theorem destuffDropsTheBitAfterFiveOnes : Obligations.DestuffDropsTheBitAfterFiveOnes := by
  intro x s hc ho
  have hfit : lengthsFit s.cfg [(destuff x).length] = true :=
    lengthsFit_mono ho (by simpa [destuff_eq_dropMarkers] using dropMarkers_length_le 0 x)
  rw [exec_destuff_of_fits hc ho hfit, destuff_eq_dropMarkers]
  rfl

theorem runLengths_false_cons (x : BitString) : runLengths (false :: x) = 0 :: runLengths x := by
  simp [runLengths, List.splitOn_cons_eq_if_modifyHead]

/-- A 1 in front lengthens the first run. -/
theorem exists_runLengths_true_cons (x : BitString) :
    ∃ l ls, runLengths x = l :: ls ∧ runLengths (true :: x) = (l + 1) :: ls := by
  obtain ⟨run, runs, h⟩ := List.exists_cons_of_ne_nil (List.splitOn_ne_nil false x)
  exact ⟨run.length, runs.map List.length, by simp [runLengths, h],
    by simp [runLengths, List.splitOn_cons_eq_if_modifyHead, h]⟩

/-- A run receives a fifth of its length in markers, the run before the string counting towards the first. -/
theorem insertMarkers_length (x : BitString) {c : Nat} (hc : c < 5) :
    ∃ l ls, runLengths x = l :: ls ∧
      (insertMarkers c x).length = x.length + (c + l) / 5 + (ls.map fun l => l / 5).sum := by
  induction x generalizing c with
  | nil => exact ⟨0, [], rfl, by simp [insertMarkers]; omega⟩
  | cons b x ih =>
    cases b with
    | false =>
      obtain ⟨l, ls, hruns, hlen⟩ := ih (c := 0) (by omega)
      refine ⟨0, l :: ls, by rw [runLengths_false_cons, hruns], ?_⟩
      simp only [insertMarkers, List.length_cons, hlen, List.map_cons, List.sum_cons]
      omega
    | true =>
      obtain ⟨l, ls, hruns, hruns'⟩ := exists_runLengths_true_cons x
      refine ⟨l + 1, ls, hruns', ?_⟩
      unfold insertMarkers
      split
      case isTrue h5 =>
        obtain ⟨l', ls', hruns'', hlen⟩ := ih (c := 0) (by omega)
        obtain ⟨rfl, rfl⟩ := List.cons.inj (hruns.symm.trans hruns'')
        simp only [List.length_cons, hlen]
        omega
      case isFalse h5 =>
        obtain ⟨l', ls', hruns'', hlen⟩ := ih (c := c + 1) (by omega)
        obtain ⟨rfl, rfl⟩ := List.cons.inj (hruns.symm.trans hruns'')
        simp only [List.length_cons, hlen]
        omega

theorem stuffScan_out_length_eq_runs (x : BitString) :
    (stuffScan x).out.length = x.length + ((runLengths x).map fun l => l / 5).sum := by
  obtain ⟨l, ls, hruns, hlen⟩ := insertMarkers_length x (c := 0) (by omega)
  rw [stuffScan_out_eq_insertMarkers, hlen, hruns, List.map_cons, List.sum_cons]
  omega

theorem runLengths_sum_le (x : BitString) : (runLengths x).sum ≤ x.length := by
  induction x with
  | nil => rfl
  | cons b x ih =>
    cases b with
    | false =>
      rw [runLengths_false_cons]
      simp
      omega
    | true =>
      obtain ⟨l, ls, hruns, hruns'⟩ := exists_runLengths_true_cons x
      rw [hruns'] at *
      rw [hruns] at ih
      simp at ih ⊢
      omega

theorem sum_map_div_five_le (ls : List Nat) : (ls.map fun l => l / 5).sum ≤ ls.sum / 5 := by
  induction ls with
  | nil => rfl
  | cons l ls ih =>
    simp only [List.map_cons, List.sum_cons]
    omega

/-- Settles O37: both readings of the scan give the length of its output. -/
theorem runsReceiveAFifthOfTheirLength : Obligations.RunsReceiveAFifthOfTheirLength := by
  intro bits
  have hsites := stuffScan_out_length bits
  have hruns := stuffScan_out_length_eq_runs bits
  have hsum := (sum_map_div_five_le (runLengths bits)).trans (Nat.div_le_div_right (runLengths_sum_le bits))
  exact ⟨by omega, hruns, hsum⟩

/-- A string, read with the `c` 1s before it, holds no six 1s in a row and does not end in five. -/
def Unstuffable (c : Nat) (y : BitString) : Prop :=
  ¬ HasSixOnes (List.replicate c true ++ y) ∧ ¬ fiveOnes <:+ List.replicate c true ++ y

/-- What holds of a string holds of what stands behind some of its bits. -/
theorem Unstuffable.of_append {c : Nat} {y front back : BitString} (h : Unstuffable c y)
    (hy : List.replicate c true ++ y = front ++ back) : Unstuffable 0 back := by
  rw [Unstuffable, hy] at h
  exact ⟨fun hsix => h.1 (hsix.trans (List.suffix_append _ _).isInfix),
    fun hfive => h.2 (hfive.trans (List.suffix_append _ _))⟩

theorem unstuffable_true_cons {c : Nat} {y : BitString} : Unstuffable c (true :: y) ↔ Unstuffable (c + 1) y := by
  rw [Unstuffable, Unstuffable, List.replicate_succ', List.append_assoc, List.singleton_append]

/-- Stuffing puts back what destuffing drops, when that is always a 0. -/
theorem insertMarkers_dropMarkers {c : Nat} {y : BitString} (hc : c < 5) (h : Unstuffable c y) :
    insertMarkers c (dropMarkers c y) = y := by
  induction c, y using dropMarkers.induct with
  | case1 c => rfl
  | case2 c y ih =>
    have hrest := h.of_append (front := List.replicate c true ++ [false]) (back := y) (by simp)
    simp [dropMarkers, insertMarkers, ih (by omega) hrest]
  | case3 => exact absurd (List.suffix_refl _) h.2
  | case4 b y ih =>
    cases b with
    | true => exact absurd (List.prefix_append _ y).isInfix h.1
    | false =>
      have hrest := h.of_append (front := fiveOnes ++ [false]) (back := y) rfl
      simp [dropMarkers_fifth, insertMarkers, ih (by omega) hrest]
  | case5 c y hend hfifth ih =>
    have h4 := ne_four_of_not_fifth hend hfifth
    have h5 : ¬ c + 1 = 5 := by omega
    rw [dropMarkers_true_of_ne h4, insertMarkers, if_neg h5, ih (by omega) (unstuffable_true_cons.mp h)]

/-- A stuffed string never ends in five 1s, for a marker would have to follow. -/
theorem not_fiveOnes_suffix_stuffScan_out (x : BitString) : ¬ fiveOnes <:+ (stuffScan x).out := by
  rintro ⟨front, h⟩
  obtain ⟨hzero, -⟩ := markerBehind_of_fiveOnesAt ⟨front, [], by rw [List.append_nil, h], rfl⟩
  rw [← h] at hzero
  simp [fiveOnes] at hzero

/-- Settles O41: stuffed strings are of that form, and on strings of that form stuffing undoes destuffing. -/
theorem imageOfStuff : Obligations.ImageOfStuff := by
  refine ⟨fun y => ⟨fun h => ?_, fun h => ?_⟩, rfl, rfl, rfl⟩
  · rw [← h]
    exact ⟨not_hasSixOnes_stuffScan_out _, not_fiveOnes_suffix_stuffScan_out _⟩
  · rw [stuffScan_out_eq_insertMarkers, destuff_eq_dropMarkers]
    exact insertMarkers_dropMarkers (by omega) h

end Sys2Proof.Machine
end

section
/-!
PROOFS. What an operation that delivers results says of its operands and of them; and BUILD (43_frame.md R122, R125,
R127): its frame has the fields of the rule, and its fcs decodes as any codeword does. O44, O45.
-/

namespace Sys2Proof.Machine

/-- When an operation delivers results, configuration, operands and results are as they must be, and the results are its
outcome. -/
theorem exec_delivers {i : Instr} {s t : State} {r : Results} (h : exec i s = .next t)
    (hresp : t.response = some (.ok r)) :
    configLegal s.cfg = true ∧ i.wellFormed s.cfg = true ∧ lengthsFit s.cfg (operandLengths i) = true ∧
      outcomeOf s.cfg i = .ok r ∧ lengthsFit s.cfg (resultLengths r) = true ∧ t = s.respond (.ok r) := by
  obtain ⟨hc, hwf, ho, hfit, rfl⟩ := exec_eq_next_iff.mp h
  have hok := responseTo_eq_ok_iff.mp (Option.some.inj hresp)
  exact ⟨hc, hwf, ho, hok, hfit r hok, by rw [hok]; rfl⟩

/-- BUILD has results exactly for an identifier ending in a digit and a payload that fits. -/
theorem build_eq_ok_iff {cfg : Config} {chan : SymString} {payload : BitString} {r : Results} :
    build cfg chan payload = .ok r ↔
      ∃ d, chanDigit chan = some d ∧ payload.length ≤ cfg.l ∧ r = .build (builtFrame cfg d payload) := by
  unfold build
  cases chanDigit chan with
  | none => simp
  | some d =>
    rcases lt_or_ge cfg.l payload.length with hlong | hfits
    · simp [hlong]
    · simp [Nat.not_lt.mpr hfits, hfits, eq_comm]

theorem chanDigit_le_nine {chan : SymString} {d : Nat} (h : chanDigit chan = some d) : d ≤ 9 := by
  obtain ⟨c, -, -, hhi, rfl⟩ := chanDigit_eq_some_iff.mp h
  omega

section BuiltFrame

variable {cfg : Config} {d : Nat} {payload : BitString}

theorem builtFrame_typed (hp : payload.length ≤ cfg.l) : frameTyped cfg (builtFrame cfg d payload) = true := by
  simp [frameTyped_iff, builtFrame, padTo_length hp, fcsLength]

theorem num_builtFrame_flag : num (builtFrame cfg d payload).flag = cfg.gid.toNat := num_binW cfg.gid.isLt

theorem num_builtFrame_src (hd : d ≤ 9) : num (builtFrame cfg d payload).src = d :=
  num_binW (Nat.lt_of_le_of_lt hd (by decide))

/-- The fields BUILD fills fit where strings of the frame's lengths do. -/
theorem builtFrame_fits (hp : payload.length ≤ cfg.l)
    (hfit : lengthsFit cfg [8, 4, cfg.l, cfg.l + parityCount cfg.l] = true) :
    lengthsFit cfg (frameLengths (builtFrame cfg d payload)) = true := by
  obtain ⟨hflag, hdest, hsrc, hdata, hfcs⟩ := frameTyped_iff.mp (builtFrame_typed (d := d) hp)
  refine lengthsFit_mono hfit fun n hn => ⟨n, ?_, le_rfl⟩
  rw [frameLengths, hflag, hdest, hsrc, hdata, hfcs, fcsLength] at hn
  simp at hn ⊢
  omega

end BuiltFrame

theorem padTo_take {l : Nat} {p : BitString} : (padTo l p).take p.length = p := by
  simp [padTo]

theorem padTo_getElem?_of_le {l j : Nat} {p : BitString} (hj : p.length ≤ j) (hjl : j < l) :
    (padTo l p)[j]? = some false := by
  rw [padTo, List.getElem?_append_right hj, zeros, List.getElem?_replicate, if_pos (by omega)]

/-- Settles O44. -/
theorem buildMakesTheFrame : Obligations.BuildMakesTheFrame := by
  intro chan c payload s hc ho hr hlast hlo hhi hp
  have hdigit := chanDigit_eq_some_iff.mpr ⟨c, hlast, hlo, hhi, rfl⟩
  obtain ⟨hflag, -, hsrc, hdata, hfcs⟩ := frameTyped_iff.mp (builtFrame_typed (d := c.toNat - 0x30) hp)
  refine ⟨builtFrame s.cfg (c.toNat - 0x30) payload, ?_, hflag, num_builtFrame_flag, rfl, hsrc,
    num_builtFrame_src (chanDigit_le_nine hdigit), hdata, padTo_take, fun j hj hjl => padTo_getElem?_of_le hj hjl, rfl,
    hfcs⟩
  rw [exec_build, build_eq_ok_iff.mpr ⟨_, hdigit, hp, rfl⟩]
  exact perform_ok hc ho (builtFrame_fits hp hr)

/-- A frame that BUILD delivers is the one of the rule, and fits. -/
theorem exec_build_delivers {chan : SymString} {payload : BitString} {f : FrameFields} {s t : State}
    (h : exec (.build chan payload) s = .next t) (hresp : t.response = some (.ok (.build f))) :
    configLegal s.cfg = true ∧ payload.length ≤ s.cfg.l ∧ lengthsFit s.cfg (frameLengths f) = true ∧
      ∃ d ≤ 9, f = builtFrame s.cfg d payload := by
  obtain ⟨hc, -, -, hok, hfit, -⟩ := exec_delivers h hresp
  obtain ⟨d, hdigit, hp, hf⟩ := build_eq_ok_iff.mp hok
  exact ⟨hc, hp, hfit, d, chanDigit_le_nine hdigit, Results.build.inj hf⟩

theorem configLegal_iff {cfg : Config} :
    configLegal cfg = true ↔ 1 ≤ cfg.l ∧ cfg.p1.legal = true ∧ cfg.p2.legal = true := by
  simp [configLegal, and_assoc]

/-- A legal configuration has a data field, so the padded payload is not empty. -/
theorem padTo_ne_nil {cfg : Config} (hc : configLegal cfg = true) {p : BitString} (hp : p.length ≤ cfg.l) :
    padTo cfg.l p ≠ [] := by
  rw [← List.length_pos_iff, padTo_length hp]
  exact (configLegal_iff.mp hc).1

/-- Settles O45: the fcs is the codeword of the data, so properties 1 and 2 of the source apply. -/
theorem builtFrameSurvivesOneError : Obligations.BuiltFrameSurvivesOneError := by
  intro chan payload f s t h hresp
  obtain ⟨hc, hp, hfit, d, -, rfl⟩ := exec_build_delivers h hresp
  have hne := padTo_ne_nil hc hp
  have hcode : lengthsFit s.cfg [(padTo s.cfg.l payload).length + parityCount (padTo s.cfg.l payload).length] = true :=
    lengthsFit_mono hfit (by simp [frameLengths, builtFrame])
  refine ⟨(freshCodewordDecodesClean _ s hc hcode).1 hne, fun k hk => ?_⟩
  have hk' : k + 1 ≤ (padTo s.cfg.l payload).length + parityCount (padTo s.cfg.l payload).length := by
    rw [← henc_length]
    exact hk
  exact everySingleErrorIsCorrected _ (k + 1) s hc hcode (Nat.le_add_left 1 k) hk'

end Sys2Proof.Machine
end

section
/-!
PROOFS. RENDER (43_frame.md R128 to R130): its Data field is the stuffed data with the last marker in brackets, so that
its line is one of the grammar, which PARSE reads back (R136). O46, O48.
-/

namespace Sys2Proof.Machine

theorem render_eq_lineText (f : FrameFields) : render f = lineText f (dataField f.data) := rfl

/-- With no site there is nothing to insert. -/
theorem withMarkers_nil (x : BitString) : withMarkers [] x = x := by
  induction x using List.reverseRecOn with
  | nil => rfl
  | append_singleton x b ih =>
    rw [withMarkers_append_singleton fun _ _ => Iff.rfl, ih]
    simp

/-- Without a marker the Data field is the digits of the data. -/
theorem dataField_of_no_marker {data : BitString} (h : markerSites data = []) : dataField data = txt data := by
  have hlast : (stuffScan data).last = none := by
    rw [stuffScan_last data, h]
    rfl
  have hout : (stuffScan data).out = data := by
    rw [stuffScan_out_eq_withMarkers, h, withMarkers_nil]
  simp [dataField, hlast, hout]

/-- With a marker the stuffed data has a 0 where the last one stands, and the Data field has it in brackets. -/
theorem dataField_of_last {data : BitString} {p : Nat} (h : (stuffScan data).last = some p) :
    ∃ front back, (stuffScan data).out = front ++ false :: back ∧ front.length = p ∧
      dataField data = txt front ++ [symOpen, 0x30, symClose] ++ txt back := by
  obtain ⟨-, hzero, -⟩ := stuffScan_last_spec h
  obtain ⟨hlt, hget⟩ := List.getElem?_eq_some_iff.mp hzero
  have hdrop : (stuffScan data).out.drop p = false :: (stuffScan data).out.drop (p + 1) := by
    rw [List.drop_eq_getElem_cons hlt, hget]
  refine ⟨(stuffScan data).out.take p, (stuffScan data).out.drop (p + 1), ?_, List.length_take_of_le hlt.le, ?_⟩
  · rw [← hdrop, List.take_append_drop]
  · simp [dataField, h, hdrop, chr]

/-- The same, the place of the last marker given by its site (42_bitstuffer.md R108). -/
theorem dataField_of_last_site {data : BitString} {a : Nat} (h : (markerSites data).getLast? = some a) :
    ∃ front back, (stuffScan data).out = front ++ false :: back ∧ front.length = a + (markerSites data).length ∧
      dataField data = txt front ++ [symOpen, 0x30, symClose] ++ txt back :=
  dataField_of_last (by rw [stuffScan_last data, h, Option.map_some])

/-- The Data field is one of the grammar, its digits the stuffed data. -/
theorem dataFieldText_dataField (data : BitString) : DataFieldText (dataField data) (stuffScan data).out := by
  cases hlast : (stuffScan data).last with
  | none => exact .inl (by simp [dataField, hlast])
  | some p =>
    obtain ⟨front, back, hout, -, hfield⟩ := dataField_of_last hlast
    exact .inr ⟨front, false, back, hout, hfield⟩

/-- The digits of the stuffed data, and two brackets when there is a marker. -/
theorem dataField_length (data : BitString) :
    (dataField data).length =
      data.length + (markerSites data).length + if 1 ≤ (markerSites data).length then 2 else 0 := by
  cases hsites : (markerSites data).getLast? with
  | none =>
    have hnil := List.getLast?_eq_none_iff.mp hsites
    simp [dataField_of_no_marker hnil, hnil]
  | some a =>
    obtain ⟨front, back, hout, -, hfield⟩ := dataField_of_last_site hsites
    have hpos : 1 ≤ (markerSites data).length :=
      List.length_pos_of_mem (List.mem_of_getLast? hsites)
    have hlen := stuffScan_out_length data
    rw [hout] at hlen
    simp at hlen
    simp [hfield, hpos]
    omega

/-- The labels are 49 symbols, flag, dest and src 16 digits (30_encoding.md R66). -/
theorem lineText_length {cfg : Config} {f : FrameFields} (h : frameTyped cfg f = true) (raw : SymString) :
    (lineText f raw).length = 49 + 16 + raw.length + fcsLength cfg := by
  obtain ⟨hflag, hdest, hsrc, -, hfcs⟩ := frameTyped_iff.mp h
  simp [lineText, labelFlag, labelDest, labelSrc, labelData, labelFcs, hflag, hdest, hsrc, hfcs]
  omega

theorem render_length {cfg : Config} {f : FrameFields} (h : frameTyped cfg f = true) :
    (render f).length = lineLength cfg (markerSites f.data).length := by
  obtain ⟨-, -, -, hdata, -⟩ := frameTyped_iff.mp h
  rw [render_eq_lineText, lineText_length h, dataField_length, hdata, lineLength]
  omega

/-- Labels, digits and Data fields have no line feed (30_encoding.md R65). -/
theorem symLF_notMem_render (f : FrameFields) : symLF ∉ render f := by
  have htxt : ∀ b, symLF ∉ txt b := notMem_txt (by decide) (by decide)
  have hdata : symLF ∉ dataField f.data := fun h =>
    absurd ((dataFieldText_dataField f.data).all_isDataSym symLF h) (by decide)
  have hlabels : symLF ∉ labelFlag ∧ symLF ∉ labelDest ∧ symLF ∉ labelSrc ∧ symLF ∉ labelData ∧ symLF ∉ labelFcs := by
    decide
  simp only [render, List.mem_append, htxt, hdata, hlabels, or_self, not_false_eq_true]

/-- A rendered frame, with a line feed or without, is a line of the grammar for it. -/
theorem wireLine_render {cfg : Config} {f : FrameFields} (h : frameTyped cfg f = true) {text : SymString}
    (ht : text = render f ∨ text = render f ++ [symLF]) : WireLine cfg text f :=
  ⟨h, dataField f.data, (stuffScan f.data).out, dataFieldText_dataField f.data, destuff_stuffScan_out f.data, ht⟩

/-- RENDER completes on a frame of its type when frame and line are within capacity. -/
theorem exec_render_of_fits {f : FrameFields} {s : State} (hc : configLegal s.cfg = true)
    (hf : frameTyped s.cfg f = true) (ho : lengthsFit s.cfg (frameLengths f) = true)
    (hr : lengthsFit s.cfg [lineLength s.cfg (markerSites f.data).length] = true) :
    exec (.render f) s = .next (s.respond (.ok (.render (render f)))) := by
  rw [exec_of_wellFormed (i := .render f) hf]
  exact perform_ok hc ho (by rwa [resultLengths, render_length hf])

/-- Settles O46: the line is the function's, whose Data field is bracketed when there is a marker. -/
theorem renderWritesOneLine : Obligations.RenderWritesOneLine := by
  intro f s hc hf ho hr
  exact ⟨render f, dataField f.data, exec_render_of_fits hc hf ho hr, render_eq_lineText f, render_length hf,
    symLF_notMem_render f, dataField_of_no_marker, fun _ ha => dataField_of_last_site ha⟩

/-- Settles O48: a rendered line is a line of the grammar, and PARSE answers the frame of such a line. -/
theorem parseInvertsRender : Obligations.ParseInvertsRender := by
  intro f text s t h hresp
  obtain ⟨hc, hf, -, hok, hfit, -⟩ := exec_delivers h hresp
  obtain rfl : render f = text := Results.render.inj (Except.ok.inj hok)
  refine ⟨(parseAcceptsExactlyTheGrammar _ s hc hfit).1 f (wireLine_render hf (.inl rfl)), fun hfit' => ?_⟩
  have hfit'' : lengthsFit s.cfg [(render f ++ [symLF]).length] = true := by
    rwa [List.length_append, List.length_singleton]
  exact (parseAcceptsExactlyTheGrammar _ s hc hfit'').1 f (wireLine_render hf (.inr rfl))

end Sys2Proof.Machine
end

section
/-!
PROOFS. CORRUPT counted (44_channel.md R146, R149, R153): how many bits a draw changes, when a draw is refused, and that
a codeword changed in at most one bit decodes to its data. O50, O51, O53.
-/

namespace Sys2Proof.Machine

/-- Whether a draw flips index `i`, in strings of at least two bits. -/
def flipMask (d : Draw) (i : Nat) : Bool :=
  (d.e1 && decide (d.k1 = i)) ^^ (d.e2 && (decide (d.ka = i) ^^ decide (d.kb = i)))

/-- The differing bits are those the mask flips. -/
theorem differingBits_corrupt {bits : BitString} (h : 2 ≤ bits.length) (d : Draw) :
    differingBits bits (corrupt bits d) = ((List.range bits.length).filter (flipMask d)).length := by
  refine congrArg List.length (List.filter_congr fun i hi => ?_)
  have hbit := corrupt_getElem? d (List.mem_range.mp hi)
  rw [decide_eq_true h, Bool.and_true] at hbit
  rw [List.getD_eq_getElem?_getD (l := corrupt bits d), hbit, Option.getD_some, flipMask]
  cases bits.getD i false <;> simp

/-- Counting a set of indices by listing it. -/
theorem length_filter_range_eq {n : Nat} {p : Nat → Bool} {l : List Nat} (hnodup : l.Nodup)
    (h : ∀ i, i ∈ l ↔ i < n ∧ p i = true) : ((List.range n).filter p).length = l.length := by
  refine List.Perm.length_eq ((List.perm_ext_iff_of_nodup (List.nodup_range.filter p) hnodup).mpr fun i => ?_)
  rw [List.mem_filter, List.mem_range, h]

theorem flipMask_eq_true_iff {d : Draw} {i : Nat} :
    flipMask d i = true ↔ ¬ ((d.e1 = true ∧ d.k1 = i) ↔ (d.e2 = true ∧ ¬ (d.ka = i ↔ d.kb = i))) := by
  rw [flipMask, Bool.xor_iff_ne, ne_eq, Bool.eq_iff_iff, Bool.and_eq_true, decide_eq_true_eq, Bool.and_eq_true,
    Bool.xor_iff_ne, ne_eq, decide_eq_decide]

/-- Settles O50: the flipped indices are listed for each choice of the events, and for each coincidence. -/
theorem corruptFlipsZeroToThreeBits : Obligations.CorruptFlipsZeroToThreeBits := by
  rintro bits ⟨e1, k1, e2, ka, kb⟩ hlen hadm
  obtain ⟨hsingle, hdouble⟩ := drawAdmissible_iff.mp hadm
  have hone : e1 = true → k1 < bits.length := fun h => hsingle h (by omega)
  have htwo : e2 = true → ka < bits.length ∧ kb < bits.length ∧ ka ≠ kb := fun h => hdouble h hlen
  have hcount : ∀ l : List Nat, l.Nodup →
      (∀ i, i ∈ l ↔ i < bits.length ∧ ¬ ((e1 = true ∧ k1 = i) ↔ (e2 = true ∧ ¬ (ka = i ↔ kb = i)))) →
      differingBits bits (corrupt bits ⟨e1, k1, e2, ka, kb⟩) = l.length := fun l hnodup hl =>
    (differingBits_corrupt hlen _).trans
      (length_filter_range_eq hnodup fun i => by rw [hl, flipMask_eq_true_iff])
  clear hsingle hdouble hadm
  match e1, e2 with
  | false, false => exact hcount [] (by simp) (by simp)
  | true, false =>
    have hk := hone rfl
    refine hcount [k1] (by simp) fun i => ?_
    simp
    omega
  | false, true =>
    obtain ⟨ha, hb, hne⟩ := htwo rfl
    refine hcount [ka, kb] (by simp [hne]) fun i => ?_
    simp
    omega
  | true, true =>
    have hk := hone rfl
    obtain ⟨ha, hb, hne⟩ := htwo rfl
    show _ = if k1 = ka ∨ k1 = kb then 1 else 3
    split
    case isFalse hcoin =>
      rw [not_or] at hcoin
      refine hcount [k1, ka, kb] (by simp [hcoin, hne]) fun i => ?_
      simp
      omega
    case isTrue hcoin =>
      obtain rfl | rfl := hcoin
      · refine hcount [kb] (by simp) fun i => ?_
        simp
        omega
      · refine hcount [ka] (by simp) fun i => ?_
        simp
        omega

/-- Settles O51: the refusal is made exactly of the draws that are not admissible, and a typed operation is refused
under another name. -/
theorem inadmissibleDrawIsRefused : Obligations.InadmissibleDrawIsRefused := by
  intro bits d s hc
  have hbad : (d.e1 = true ∧ 1 ≤ bits.length ∧ bits.length ≤ d.k1) ∨
      (d.e2 = true ∧ 2 ≤ bits.length ∧ (bits.length ≤ d.ka ∨ bits.length ≤ d.kb ∨ d.ka = d.kb)) ↔
      ¬ drawAdmissible bits.length d = true := by
    simp only [drawAdmissible_iff, not_and_or, Classical.not_imp, not_lt, ne_eq, not_not]
  rw [hbad, exec_corrupt]
  constructor
  · intro h
    rw [if_neg h]
    exact perform_of_illTyped hc
  · intro h hadm
    rw [if_pos hadm] at h
    cases perform_refused_cases hc h

theorem eq_of_getD_eq {a b : BitString} (hlen : b.length = a.length)
    (h : ∀ i < a.length, b.getD i false = a.getD i false) : b = a :=
  List.ext_getElem hlen fun i hb ha => by
    rw [← List.getD_eq_getElem b false hb, h i ha, List.getD_eq_getElem]

/-- A word that differs from another in at most one bit is it, or it with one flip. -/
theorem eq_or_eq_flipAt_of_differingBits_le_one {a b : BitString} (hlen : b.length = a.length)
    (h : differingBits a b ≤ 1) : b = a ∨ ∃ k < a.length, b = flipAt a k := by
  have hdiff : ∀ i, i ∈ (List.range a.length).filter (fun i => a.getD i false != b.getD i false) ↔
      i < a.length ∧ a.getD i false ≠ b.getD i false := fun i => by
    rw [List.mem_filter, List.mem_range, bne_iff_ne]
  unfold differingBits at h
  generalize (List.range a.length).filter (fun i => a.getD i false != b.getD i false) = diff at hdiff h
  match diff with
  | [] =>
    refine .inl (eq_of_getD_eq hlen fun i hi => ?_)
    by_contra hne
    exact List.not_mem_nil ((hdiff i).mpr ⟨hi, Ne.symm hne⟩)
  | [k] =>
    obtain ⟨hk, hkne⟩ := (hdiff k).mp (List.mem_singleton_self k)
    refine .inr ⟨k, hk, eq_of_getD_eq (by simpa) fun i hi => ?_⟩
    rw [flipAt_length] at hi
    rw [flipAt_getD _ _ hi]
    by_cases hik : k = i
    · subst hik
      simpa using (Bool.eq_not_of_ne hkne.symm)
    · have hmem : i ∉ [k] := by simpa using Ne.symm hik
      rw [hdiff, not_and, not_not] at hmem
      rw [decide_eq_false hik, Bool.xor_false, hmem hi]
  | _ :: _ :: _ => simp at h

/-- A word that differs from the codeword of non-empty data in at most one bit decodes to the data (44_channel.md
R153). -/
theorem exec_hdec_of_differingBits_le_one {d w : BitString} {s : State} (hd : d ≠ [])
    (hlen : w.length = (henc d).length) (hdiff : differingBits (henc d) w ≤ 1) (hc : configLegal s.cfg = true)
    (ho : lengthsFit s.cfg [(henc d).length] = true) :
    ∃ errpos, exec (.hdec (txt w)) s = .next (s.respond (.ok (.hdec d errpos))) := by
  rw [henc_length] at ho
  obtain rfl | ⟨k, hk, rfl⟩ := eq_or_eq_flipAt_of_differingBits_le_one hlen hdiff
  · exact ⟨0, (freshCodewordDecodesClean d s hc ho).1 hd⟩
  · rw [henc_length] at hk
    exact ⟨k + 1, everySingleErrorIsCorrected d (k + 1) s hc ho (Nat.le_add_left 1 k) hk⟩

/-- Settles O53. -/
theorem atMostOneChannelErrorIsUndone : Obligations.AtMostOneChannelErrorIsUndone := by
  intro d draw out s t hd h hresp hdiff
  obtain ⟨hc, -, ho, hok, -, -⟩ := exec_delivers h hresp
  obtain rfl : corrupt (henc d) draw = out := Results.corrupt.inj (Except.ok.inj hok)
  exact exec_hdec_of_differingBits_le_one hd (corrupt_length _ _) hdiff hc ho

end Sys2Proof.Machine
end

section
/-!
PROOFS. The law of the draw (44_channel.md R150): an event that is a conjunction of events of the four independent
choices has the product of their probabilities, and each clause of the law is such an event. O54.
-/

namespace Sys2Proof.Machine

theorem sum_map_flatMap {α β : Type} (l : List α) (f : α → List β) (w : β → ℝ) :
    ((l.flatMap f).map w).sum = (l.map fun a => ((f a).map w).sum).sum := by
  rw [List.map_flatMap, List.flatMap_def, List.sum_flatten, List.map_map]
  rfl

/-- A number, counted when a condition holds. -/
noncomputable def whenHolds (cond : Bool) (x : ℝ) : ℝ := if cond then x else 0

@[simp] theorem whenHolds_true (x : ℝ) : whenHolds true x = x := rfl

@[simp] theorem whenHolds_false (x : ℝ) : whenHolds false x = 0 := rfl

theorem whenHolds_and (p q : Bool) (x y : ℝ) : whenHolds (p && q) (x * y) = whenHolds p x * whenHolds q y := by
  cases p <;> cases q <;> simp

theorem sum_map_filter {α : Type} (l : List α) (event : α → Bool) (w : α → ℝ) :
    ((l.filter event).map w).sum = (l.map fun a => whenHolds (event a) (w a)).sum := by
  induction l with
  | nil => rfl
  | cons a l ih => cases h : event a <;> simp [h, ih]

/-- The probability that an event choice meets a condition. -/
noncomputable def eventChance (p : ℝ) (cond : Bit → Bool) : ℝ :=
  whenHolds (cond false) (chance p false) + whenHolds (cond true) (chance p true)

theorem eventChance_eq_sum (p : ℝ) (cond : Bit → Bool) :
    ([false, true].map fun e => whenHolds (cond e) (chance p e)).sum = eventChance p cond := by
  simp [eventChance]

theorem eventChance_true (p : ℝ) : eventChance p (fun _ => true) = 1 := by simp [eventChance]

theorem eventChance_id (p : ℝ) : eventChance p (fun e => e) = p := by simp [eventChance]

theorem eventChance_eq (p : ℝ) (x : Bit) : eventChance p (fun e => e == x) = chance p x := by
  cases x <;> simp [eventChance]

/-- The share of a list's elements that meet a condition. -/
noncomputable def share {α : Type} (l : List α) (cond : α → Bool) : ℝ := l.countP cond / l.length

theorem sum_map_whenHolds {α : Type} (l : List α) (cond : α → Bool) (x : ℝ) :
    (l.map fun a => whenHolds (cond a) x).sum = l.countP cond * x := by
  induction l with
  | nil => simp
  | cons a l ih => cases h : cond a <;> simp [h, ih, add_mul, add_comm]

theorem share_eq_sum {α : Type} (l : List α) (cond : α → Bool) :
    (l.map fun a => whenHolds (cond a) (1 / (l.length : ℝ))).sum = share l cond := by
  rw [sum_map_whenHolds, share, mul_one_div]

theorem share_true {α : Type} {l : List α} (h : l ≠ []) : share l (fun _ => true) = 1 := by
  simp [share, h]

/-- Of a list without repetition each element has the same share. -/
theorem share_eq_one_div {α : Type} [DecidableEq α] {l : List α} {a : α} (hnodup : l.Nodup) (ha : a ∈ l)
    {cond : α → Bool} (hcond : ∀ x ∈ l, (cond x = true ↔ x = a)) : share l cond = 1 / l.length := by
  have hcount : l.countP cond = l.count a :=
    List.countP_congr fun x hx => by rw [hcond x hx, beq_iff_eq]
  rw [share, hcount, List.count_eq_one_of_mem hnodup ha, Nat.cast_one]

theorem indexPairs_nodup (n : Nat) : (indexPairs n).Nodup := by
  induction n with
  | zero => simp [indexPairs]
  | succ n ih =>
    rw [indexPairs_succ]
    refine ih.append (List.nodup_range.map fun a b h => (Prod.mk.inj h).1) fun p hp hp' => ?_
    obtain ⟨a, -, rfl⟩ := List.mem_map.mp hp'
    exact lt_irrefl _ (mem_indexPairs.mp hp).2

theorem singleChoices_ne_nil (n : Nat) : singleChoices n ≠ [] := by
  rw [← List.length_pos_iff, singleChoices_length]
  omega

theorem mem_pairChoices {n : Nat} {p : Nat × Nat} :
    p ∈ pairChoices n ↔ if n < 2 then p = (0, 0) else p.1 < p.2 ∧ p.2 < n := by
  unfold pairChoices
  split <;> simp

theorem pairChoices_ne_nil (n : Nat) : pairChoices n ≠ [] := by
  by_cases h : n < 2
  · exact List.ne_nil_of_mem (mem_pairChoices.mpr (by rw [if_pos h]))
  · exact List.ne_nil_of_mem (a := (0, 1)) (mem_pairChoices.mpr (by rw [if_neg h]; omega))

theorem share_singleChoices {n k : Nat} (h : k < n) : share (singleChoices n) (fun j => j == k) = 1 / n := by
  have hmem : k ∈ singleChoices n := by rw [singleChoices_of_pos (by omega)]; exact List.mem_range.mpr h
  rw [share_eq_one_div (singleChoices_nodup n) hmem (fun x _ => beq_iff_eq), singleChoices_length,
    max_eq_right (by omega)]

/-- Two indices are the unordered pair `{a, b}`. -/
def isPair (a b x y : Nat) : Bool := decide (x = a ∧ y = b ∨ x = b ∧ y = a)

theorem pairIs_eq_isPair (a b : Nat) (d : Draw) : Draw.pairIs a b d = isPair a b d.ka d.kb := rfl

theorem isPair_comm (a b x y : Nat) : isPair a b x y = isPair a b y x := by
  unfold isPair
  rw [decide_eq_decide]
  omega

theorem share_pairChoices {n a b : Nat} (hab : a < b) (hb : b < n) :
    share (pairChoices n) (fun p => isPair a b p.1 p.2) = 1 / ((n : ℝ) * (n - 1) / 2) := by
  have hn : 2 ≤ n := by omega
  have hcond : ∀ p ∈ indexPairs n, (isPair a b p.1 p.2 = true ↔ p = (a, b)) := by
    intro p hp
    have hlt := (mem_indexPairs.mp hp).1
    rw [isPair, decide_eq_true_eq, Prod.ext_iff]
    omega
  have hlen : (2 * (indexPairs n).length : ℝ) = n * (n - 1) := by
    have hnat := congrArg (Nat.cast (R := ℝ)) (two_mul_indexPairs_length n)
    rwa [Nat.cast_mul, Nat.cast_mul, Nat.cast_sub (by omega), Nat.cast_one, Nat.cast_ofNat] at hnat
  rw [pairChoices_of_two_le hn, share_eq_one_div (indexPairs_nodup n) (mem_indexPairs.mpr ⟨hab, hb⟩) hcond, ← hlen]
  ring

section Law

variable {names : RealNames} {order : PairOrder} {cfg : Config} {n : Nat}

/-- The orders in which a pair is presented have together the probability of the pair. -/
theorem sum_bothOrders {p : Nat × Nat} (hp : p ∈ pairChoices n) (e1 : Bit) (k1 : Nat) (e2 : Bit)
    {h : Nat → Nat → Bool} (hsymm : ∀ x y, h x y = h y x) (c : ℝ) :
    ((bothOrders p).map fun q => whenHolds (h q.1 q.2) (c * orderProbability order ⟨e1, k1, e2, q.1, q.2⟩)).sum =
      whenHolds (h p.1 p.2) c := by
  obtain ⟨a, b⟩ := p
  by_cases hab : a = b
  · have hone := orderProbability_of_eq order ⟨e1, k1, e2, a, b⟩ hab
    simp [bothOrders, hab] at hone ⊢
    simp [hone]
  · have hlt : a < b := by
      rw [mem_pairChoices] at hp
      split at hp
      · simp only [Prod.mk.injEq] at hp; omega
      · exact hp.1
    have hadd := orderProbability_add order ⟨e1, k1, e2, a, b⟩ hlt
    simp only [bothOrders, hab, if_false, List.map_cons, List.map_nil, List.sum_cons, List.sum_nil, add_zero, hsymm b a]
    cases h a b
    · simp
    · rw [whenHolds_true, whenHolds_true, ← mul_add, hadd, mul_one, whenHolds_true]

/-- Whatever the other choices, the pairs that meet a condition have together their share. -/
theorem sum_over_pairs (e1 : Bit) (k1 : Nat) (e2 : Bit) {h : Nat → Nat → Bool} (hsymm : ∀ x y, h x y = h y x) :
    ((pairChoices n).map fun p => ((bothOrders p).map fun q =>
        whenHolds (h q.1 q.2) (1 / ((pairChoices n).length : ℝ) *
          orderProbability order ⟨e1, k1, e2, q.1, q.2⟩)).sum).sum =
      share (pairChoices n) (fun p => h p.1 p.2) := by
  rw [List.map_congr_left fun p hp => sum_bothOrders hp e1 k1 e2 hsymm (1 / ((pairChoices n).length : ℝ)), share_eq_sum]

/-- The law of the draw is a product law: a condition on each of the four choices, the one on the pair not looking at
its order, has the product of the four probabilities. -/
theorem probabilityThat_eq_mul {event : Draw → Bool} (f1 : Bit → Bool) (g : Nat → Bool) (f2 : Bit → Bool)
    (h : Nat → Nat → Bool) (hsymm : ∀ x y, h x y = h y x)
    (hevent : ∀ d, event d = (f1 d.e1 && g d.k1 && f2 d.e2 && h d.ka d.kb)) :
    probabilityThat names order cfg n event =
      eventChance (cfg.p1.value names) f1 * share (singleChoices n) g * eventChance (cfg.p2.value names) f2 *
        share (pairChoices n) (fun p => h p.1 p.2) := by
  have hweight : ∀ d, whenHolds (event d) (drawProbability names order cfg n d) =
      whenHolds (f1 d.e1) (chance (cfg.p1.value names) d.e1) *
        whenHolds (g d.k1) (1 / ((singleChoices n).length : ℝ)) *
        whenHolds (f2 d.e2) (chance (cfg.p2.value names) d.e2) *
        whenHolds (h d.ka d.kb) (1 / ((pairChoices n).length : ℝ) * orderProbability order d) := by
    intro d
    rw [hevent, drawProbability, mul_assoc _ (1 / ((pairChoices n).length : ℝ)), whenHolds_and, whenHolds_and,
      whenHolds_and]
  simp only [probabilityThat, sum_map_filter, hweight, drawsOf, sum_map_flatMap, List.map_map, Function.comp_def,
    List.sum_map_mul_left, List.sum_map_mul_right, sum_over_pairs _ _ _ hsymm, share_eq_sum, eventChance_eq_sum]

end Law

theorem chance_nonneg {p : ℝ} (h : 0 ≤ p ∧ p ≤ 1) (x : Bit) : 0 ≤ chance p x := by
  cases x <;> simp [h]

theorem orderProbability_nonneg (order : PairOrder) (d : Draw) : 0 ≤ orderProbability order d := by
  unfold orderProbability
  split
  · exact zero_le_one
  · split
    · exact sub_nonneg.mpr (order _).2.2
    · exact (order _).2.1

theorem drawProbability_nonneg {cfg : Config} (hc : configLegal cfg = true) (names : RealNames) (order : PairOrder)
    (n : Nat) (d : Draw) : 0 ≤ drawProbability names order cfg n d := by
  obtain ⟨-, h1, h2⟩ := configLegal_iff.mp hc
  have hp1 := chance_nonneg ((Probability.legal_iff _).mp h1 names) d.e1
  have hp2 := chance_nonneg ((Probability.legal_iff _).mp h2 names) d.e2
  have horder := orderProbability_nonneg order d
  unfold drawProbability
  positivity

/-- Every draw of the law is admissible (44_channel.md R146). -/
theorem drawAdmissible_of_mem_drawsOf {n : Nat} {d : Draw} (h : d ∈ drawsOf n) : drawAdmissible n d = true := by
  obtain ⟨hk, p, hp, hd⟩ := mem_drawsOf.mp h
  refine drawAdmissible_iff.mpr ⟨fun _ hn => ?_, fun _ hn => ?_⟩
  · rw [singleChoices_of_pos hn] at hk
    exact List.mem_range.mp hk
  · rw [pairChoices_of_two_le hn, mem_indexPairs] at hp
    rw [bothOrders, if_neg hp.1.ne] at hd
    simp [Prod.ext_iff] at hd
    omega

/-- Settles O54: each clause is a condition on the four choices, and the conditions it does not make hold always. -/
theorem drawLawHasTheStatedProbabilities : Obligations.DrawLawHasTheStatedProbabilities := by
  intro names order cfg n p1 p2 pairs pr
  have hlaw : ∀ (f1 : Bit → Bool) (g : Nat → Bool) (f2 : Bit → Bool) (h : Nat → Nat → Bool) (event : Draw → Bool),
      (∀ x y, h x y = h y x) → (∀ d, event d = (f1 d.e1 && g d.k1 && f2 d.e2 && h d.ka d.kb)) → pr event =
        eventChance p1 f1 * share (singleChoices n) g * eventChance p2 f2 *
          share (pairChoices n) (fun p => h p.1 p.2) :=
    fun f1 g f2 h event hsymm hevent => probabilityThat_eq_mul f1 g f2 h hsymm hevent
  have hsingle := share_true (singleChoices_ne_nil n)
  have hpair := share_true (pairChoices_ne_nil n)
  refine ⟨fun hc d _ => drawProbability_nonneg hc names order n d, fun d hd => drawAdmissible_of_mem_drawsOf hd,
    ?_, ?_, ?_, fun x y => ?_, fun k hk => ⟨?_, ?_, fun x y => ?_⟩,
    fun a b hab hb => ⟨?_, ?_, fun x y => ?_, fun k hk => ⟨?_, fun x y => ?_⟩⟩⟩
  · rw [hlaw (fun _ => true) (fun _ => true) (fun _ => true) (fun _ _ => true) _ (by simp) (by simp)]
    simp only [eventChance_true, hsingle, hpair, mul_one]
  · rw [hlaw (fun e => e) (fun _ => true) (fun _ => true) (fun _ _ => true) _ (by simp) (by simp)]
    simp only [eventChance_true, eventChance_id, hsingle, hpair, mul_one]
  · rw [hlaw (fun _ => true) (fun _ => true) (fun e => e) (fun _ _ => true) _ (by simp) (by simp)]
    simp only [eventChance_true, eventChance_id, hsingle, hpair, mul_one, one_mul]
  · rw [hlaw (fun e => e == x) (fun _ => true) (fun e => e == y) (fun _ _ => true) _ (by simp) (by simp)]
    simp only [eventChance_eq, hsingle, hpair, mul_one]
  · rw [hlaw (fun _ => true) (fun j => j == k) (fun _ => true) (fun _ _ => true) _ (by simp) (by simp)]
    simp only [eventChance_true, share_singleChoices hk, hpair, mul_one, one_mul]
  · rw [hlaw (fun e => e) (fun j => j == k) (fun _ => true) (fun _ _ => true) _ (by simp) (by simp)]
    simp only [eventChance_true, eventChance_id, share_singleChoices hk, hpair, mul_one, mul_one_div]
  · rw [hlaw (fun e => e == x) (fun j => j == k) (fun e => e == y) (fun _ _ => true) _ (by simp) (by simp)]
    simp only [eventChance_eq, share_singleChoices hk, hpair, mul_one]
  · rw [hlaw (fun _ => true) (fun _ => true) (fun _ => true) (isPair a b) _ (isPair_comm a b)
      (by simp [pairIs_eq_isPair])]
    simp only [eventChance_true, hsingle, share_pairChoices hab hb, mul_one, one_mul, pairs]
  · rw [hlaw (fun _ => true) (fun _ => true) (fun e => e) (isPair a b) _ (isPair_comm a b)
      (by simp [pairIs_eq_isPair])]
    simp only [eventChance_true, eventChance_id, hsingle, share_pairChoices hab hb, mul_one, one_mul, mul_one_div,
      pairs]
  · rw [hlaw (fun e => e == x) (fun _ => true) (fun e => e == y) (isPair a b) _ (isPair_comm a b)
      (by simp [pairIs_eq_isPair])]
    simp only [eventChance_eq, hsingle, share_pairChoices hab hb, mul_one, pairs]
  · rw [hlaw (fun _ => true) (fun j => j == k) (fun _ => true) (isPair a b) _ (isPair_comm a b)
      (by simp [pairIs_eq_isPair])]
    simp only [eventChance_true, share_singleChoices hk, share_pairChoices hab hb, mul_one, one_mul, pairs]
  · rw [hlaw (fun e => e == x) (fun j => j == k) (fun e => e == y) (isPair a b) _ (isPair_comm a b)
      (by simp [pairIs_eq_isPair])]
    simp only [eventChance_eq, share_singleChoices hk, share_pairChoices hab hb, pairs]

end Sys2Proof.Machine
end

section
/-!
PROOFS. The invariant (10_state.md R22, 70_reset_and_hazards.md R197): the results of every operation are sound, so
every step keeps it. O14.
-/

namespace Sys2Proof.Machine

/-- HDEC has results exactly on the texts of non-empty words. -/
theorem hdec_eq_ok_iff {text : SymString} {r : Results} :
    hdec text = .ok r ↔ ∃ cw, cw ≠ [] ∧ text = txt cw ∧ r = hdecWord cw := by
  constructor
  · intro h
    unfold hdec at h
    split at h
    case isTrue => cases h
    case isFalse hlen =>
      split at h
      case h_1 => cases h
      case h_2 cw hcw =>
        obtain rfl := bitsOf_eq_some_iff.mp hcw
        refine ⟨cw, ?_, rfl, (Except.ok.inj h).symm⟩
        rintro rfl
        exact hlen rfl
  · rintro ⟨cw, hne, rfl, rfl⟩
    exact hdec_txt hne

/-- PARSE has results exactly on the lines of the grammar. -/
theorem parse_eq_ok_iff {cfg : Config} {text : SymString} {r : Results} :
    parse cfg text = .ok r ↔ ∃ f, WireLine cfg text f ∧ r = .parse f := by
  constructor
  · intro h
    unfold parse at h
    split at h
    case h_1 => cases h
    case h_2 f hf => exact ⟨f, parseLine_eq_some_iff.mp hf, (Except.ok.inj h).symm⟩
  · rintro ⟨f, hf, rfl⟩
    exact parse_of_wireLine hf

/-- HDEC's syndrome is in range and its data has the length for the word (41_hamming.md R93, R95). -/
theorem resultsSound_hdecWord (cfg : Config) {cw : BitString} (h : cw ≠ []) : ResultsSound cfg (hdecWord cw) :=
  ⟨cw.length, List.length_pos_of_ne_nil h, by rw [extractData_length, correct_length], syndrome_lt cw⟩

theorem resultsSound_builtFrame {cfg : Config} {d : Nat} {payload : BitString} (hd : d ≤ 9)
    (hp : payload.length ≤ cfg.l) : ResultsSound cfg (.build (builtFrame cfg d payload)) :=
  ⟨builtFrame_typed hp, num_builtFrame_flag, rfl, by rwa [num_builtFrame_src hd], rfl⟩

/-- Whatever the operands, the results of an operation are sound. -/
theorem resultsSound_of_outcomeOf {cfg : Config} {i : Instr} {r : Results} (h : outcomeOf cfg i = .ok r) :
    ResultsSound cfg r := by
  cases i with
  | txt2bits _ | destuff _ | corrupt _ _ =>
    cases h
    exact trivial
  | henc data =>
    cases h
    rw [ResultsSound, henc_length]
    exact isPow2_codeword_length _
  | hdec text =>
    obtain ⟨cw, hne, -, rfl⟩ := hdec_eq_ok_iff.mp h
    exact resultsSound_hdecWord cfg hne
  | stuff bits =>
    cases h
    refine ⟨not_hasSixOnes_stuffScan_out bits, fun p hp => ?_⟩
    obtain ⟨h5, hzero, -⟩ := stuffScan_last_spec hp
    exact ⟨h5, hzero⟩
  | build chan payload =>
    obtain ⟨d, hdigit, hp, rfl⟩ := build_eq_ok_iff.mp h
    exact resultsSound_builtFrame (chanDigit_le_nine hdigit) hp
  | render f =>
    cases h
    exact symLF_notMem_render f
  | parse text =>
    obtain ⟨f, ⟨htyped, -⟩, rfl⟩ := parse_eq_ok_iff.mp h
    exact htyped

/-- What an operation answers is sound, the results within capacity. -/
theorem responseSound_responseTo {cfg : Config} {i : Instr} (hfit : OutcomeFits cfg (outcomeOf cfg i)) :
    ResponseSound cfg (responseTo (outcomeOf cfg i)) := by
  cases h : outcomeOf cfg i with
  | error c => trivial
  | ok r => exact ⟨resultsSound_of_outcomeOf h, hfit r h⟩

/-- An operation that answers a next state leads to a state of the invariant, whatever response stood before. -/
theorem exec_establishes_inv {i : Instr} {s t : State} (h : exec i s = .next t) : Inv t := by
  obtain ⟨hc, -, -, hfit, rfl⟩ := exec_eq_next_iff.mp h
  refine ⟨hc, fun r hr => ?_⟩
  obtain rfl := Option.some.inj hr
  exact responseSound_responseTo hfit

/-- Settles O14: an idle step leaves no response, a reserved code gets one without results, and an operation's is
sound. -/
theorem everyStepKeepsTheInvariant : Obligations.EveryStepKeepsTheInvariant := by
  rintro s t ⟨hc, -⟩ h
  obtain ⟨-, rfl⟩ | ⟨r, rest, -, ⟨i, -, hex⟩ | ⟨-, -, rfl⟩⟩ := step_next_cases h
  · exact inv_of_no_response hc rfl
  · exact exec_establishes_inv hex
  · refine ⟨hc, fun r hr => ?_⟩
    obtain rfl := Option.some.inj hr
    trivial

end Sys2Proof.Machine
end

section
/-!
PROOFS. The host's paths (30_encoding.md R69): what a path that ended did, request by request, and the link end to end
(43_frame.md R136, R137). O55, O56, O57.
-/

namespace Sys2Proof.Machine

/-- With unbounded buffers a well-formed operation delivers the results it has. -/
theorem exec_of_unbounded {i : Instr} {s : State} {r : Results} (hc : configLegal s.cfg = true) (hn : s.cfg.nmax = none)
    (hwf : i.wellFormed s.cfg = true) (hok : outcomeOf s.cfg i = .ok r) : exec i s = .next (s.respond (.ok r)) := by
  rw [exec_of_wellFormed hwf, hok]
  exact perform_ok hc (lengthsFit_of_unbounded hn _) (lengthsFit_of_unbounded hn _)

/-- TXLINE gives a line when its three requests deliver their results. -/
theorem txline_of_delivered {chan text : SymString} {p : BitString} {f : FrameFields} {line : SymString}
    {s s1 s2 s3 : State} (h1 : exec (.txt2bits text) s = .next s1) (hr1 : s1.response = some (.ok (.txt2bits p)))
    (h2 : exec (.build chan p) s1 = .next s2) (hr2 : s2.response = some (.ok (.build f)))
    (h3 : exec (.render f) s2 = .next s3) (hr3 : s3.response = some (.ok (.render line))) :
    txline chan text s = .next (s3, some (line ++ [symLF])) :=
  (ask_of_ok h1 hr1).trans ((ask_of_ok h2 hr2).trans (ask_of_ok h3 hr3))

/-- RXLINE gives data when its two requests deliver their results. -/
theorem rxline_of_delivered {line : SymString} {f : FrameFields} {d : BitString} {e : Nat} {s s1 s2 : State}
    (h1 : exec (.parse line) s = .next s1) (hr1 : s1.response = some (.ok (.parse f)))
    (h2 : exec (.hdec (txt f.fcs)) s1 = .next s2) (hr2 : s2.response = some (.ok (.hdec d e))) :
    rxline line s = .next (s2, some (d, e)) :=
  (ask_of_ok h1 hr1).trans (ask_of_ok h2 hr2)

/-- Settles O55: each of the three requests delivers its results, and RENDER's line is a line of the grammar. -/
theorem txlineSendsTheRenderedFrame : Obligations.TxlineSendsTheRenderedFrame := by
  intro chan text c s hc hn hlast hlo hhi hp
  have hdigit := chanDigit_eq_some_iff.mpr ⟨c, hlast, hlo, hhi, rfl⟩
  have htyped := builtFrame_typed (d := c.toNat - 0x30) hp
  obtain ⟨hflag, -, hsrc, -, -⟩ := frameTyped_iff.mp htyped
  have htext := exec_of_unbounded (i := .txt2bits text) hc hn rfl rfl
  have hbuild := exec_of_unbounded (i := .build chan (txt2bits text))
    (s := s.respond (.ok (.txt2bits (txt2bits text)))) hc hn rfl (build_eq_ok_iff.mpr ⟨_, hdigit, hp, rfl⟩)
  have hrender := fun resp => exec_of_unbounded (s := s.respond resp)
    (i := .render (builtFrame s.cfg (c.toNat - 0x30) (txt2bits text))) hc hn htyped rfl
  have hrender' := exec_of_unbounded (s := s) hc hn (i := .render (builtFrame s.cfg (c.toNat - 0x30) (txt2bits text)))
    htyped rfl
  exact ⟨_, _, _, _, txline_of_delivered htext rfl hbuild rfl (hrender _) rfl, rfl, rfl, hflag, num_builtFrame_flag,
    rfl, hsrc, num_builtFrame_src (chanDigit_le_nine hdigit), rfl, rfl, rfl, hrender', render_eq_lineText _,
    dataField_of_no_marker, fun _ ha => dataField_of_last_site ha, wireLine_render htyped (.inr rfl),
    by rw [List.length_append, render_length htyped]; rfl⟩

/-- What the first request of a path did: it delivered its results, with which the path went on, or it faulted and the
path ended there. -/
theorem ask_next_cases {α : Type} {i : Instr} {s s' : State} {v : Option α} {go : Results → State → Reply α}
    (h : ask i s go = .next (s', v)) :
    ∃ s1, exec i s = .next s1 ∧ configLegal s.cfg = true ∧ s1.cfg = s.cfg ∧
      ((∃ r, outcomeOf s.cfg i = .ok r ∧ s1.response = some (.ok r) ∧ go r s1 = .next (s', v)) ∨
        ∃ c, outcomeOf s.cfg i = .error c ∧ s1.response = some (.formatError c) ∧ s' = s1 ∧ v = none) := by
  cases hex : exec i s with
  | fault f => exact nomatch f
  | refused q =>
    rw [ask_of_refused hex] at h
    cases h
  | next s1 =>
    obtain ⟨hc, -, -, -, rfl⟩ := exec_eq_next_iff.mp hex
    refine ⟨_, rfl, hc, rfl, ?_⟩
    cases hout : outcomeOf s.cfg i with
    | ok r =>
      rw [hout] at hex
      exact .inl ⟨r, rfl, rfl, (ask_of_ok hex rfl).symm.trans h⟩
    | error c =>
      rw [hout] at hex
      have heq := (ask_of_formatError hex rfl).symm.trans h
      cases heq
      exact .inr ⟨c, rfl, rfl, rfl, rfl⟩

/-- BUILD's two faults (43_frame.md R126). -/
theorem build_error_cases {cfg : Config} {chan : SymString} {payload : BitString} {c : Cause}
    (h : build cfg chan payload = .error c) : c = .addrSuffix ∨ c = .payloadTooLong := by
  unfold build at h
  split at h
  case h_1 => cases h; exact .inl rfl
  case h_2 =>
    split at h
    case isTrue => cases h; exact .inr rfl
    case isFalse => cases h

theorem parse_error_cases {cfg : Config} {text : SymString} {c : Cause} (h : parse cfg text = .error c) :
    c = .wireText := by
  unfold parse at h
  split at h
  case h_1 => cases h; rfl
  case h_2 => cases h

/-- HDEC of a word that is not empty has no fault. -/
theorem hdec_txt_ne_error {b : BitString} (h : b ≠ []) (c : Cause) : hdec (txt b) ≠ .error c := by
  rw [hdec_txt h]
  exact nofun

/-- What a TXLINE that ended did: BUILD faulted, or all three requests delivered their results. -/
theorem txline_next_cases {chan text : SymString} {s s' : State} {v : Option SymString}
    (h : txline chan text s = .next (s', v)) :
    ∃ s1, exec (.txt2bits text) s = .next s1 ∧
      ((∃ c, exec (.build chan (txt2bits text)) s1 = .next s' ∧ s'.response = some (.formatError c) ∧
          (c = .addrSuffix ∨ c = .payloadTooLong) ∧ v = none) ∨
        ∃ s2 f t, exec (.build chan (txt2bits text)) s1 = .next s2 ∧ s2.response = some (.ok (.build f)) ∧
          exec (.render f) s2 = .next s' ∧ s'.response = some (.ok (.render t)) ∧ v = some (t ++ [symLF])) := by
  obtain ⟨s1, h1, -, -, ⟨r, hr, -, h⟩ | ⟨c, hc, -⟩⟩ := ask_next_cases h
  · cases hr
    refine ⟨s1, h1, ?_⟩
    obtain ⟨s2, h2, -, -, ⟨r, hr, hresp, h⟩ | ⟨c, hc, hresp, rfl, rfl⟩⟩ := ask_next_cases h
    · obtain ⟨d, -, -, rfl⟩ := build_eq_ok_iff.mp hr
      obtain ⟨s3, h3, -, -, ⟨r, hr, hresp', h⟩ | ⟨c, hc, -⟩⟩ := ask_next_cases h
      · cases hr
        cases h
        exact .inr ⟨s2, _, _, h2, hresp, h3, hresp', rfl⟩
      · cases hc
    · exact .inl ⟨c, h2, hresp, build_error_cases hc, rfl⟩
  · cases hc

/-- What an RXLINE that ended did: PARSE faulted, or both requests delivered their results. The fcs of a parsed frame is
not empty, so HDEC has no fault there. -/
theorem rxline_next_cases {line : SymString} {s s' : State} {v : Option (BitString × Nat)}
    (h : rxline line s = .next (s', v)) :
    (exec (.parse line) s = .next s' ∧ s'.response = some (.formatError .wireText) ∧ v = none) ∨
      ∃ s1 f d e, exec (.parse line) s = .next s1 ∧ s1.response = some (.ok (.parse f)) ∧
        exec (.hdec (txt f.fcs)) s1 = .next s' ∧ s'.response = some (.ok (.hdec d e)) ∧ v = some (d, e) := by
  obtain ⟨s1, h1, hlegal, -, ⟨r, hr, hresp, h⟩ | ⟨c, hc, hresp, rfl, rfl⟩⟩ := ask_next_cases h
  · obtain ⟨f, ⟨htyped, -⟩, rfl⟩ := parse_eq_ok_iff.mp hr
    obtain ⟨s2, h2, -, -, ⟨r, hr, hresp', h⟩ | ⟨c, hc, -⟩⟩ := ask_next_cases h
    · obtain ⟨cw, -, -, rfl⟩ := hdec_eq_ok_iff.mp hr
      cases h
      exact .inr ⟨s1, f, _, _, h1, hresp, h2, hresp', rfl⟩
    · have hne : f.fcs ≠ [] := by
        obtain ⟨-, -, -, -, hfcs⟩ := frameTyped_iff.mp htyped
        have hl := (configLegal_iff.mp hlegal).1
        rw [← List.length_pos_iff, hfcs, fcsLength]
        omega
      exact absurd hc (hdec_txt_ne_error hne c)
  · obtain rfl := parse_error_cases hc
    exact .inl ⟨h1, hresp, rfl⟩

/-- Settles O56. -/
theorem pathsEndAtTheFirstFault : Obligations.PathsEndAtTheFirstFault := by
  refine ⟨fun chan text p s s1 s2 c h1 hr1 h2 hr2 => (ask_of_ok h1 hr1).trans (ask_of_formatError h2 hr2),
    fun line s s1 c h hr => ask_of_formatError h hr, fun chan text s s' h => ?_, fun line s s' h => ?_,
    fun chan text line s s' h => ?_, fun line d e s s' h => ?_⟩
  · obtain ⟨s1, h1, ⟨c, h2, hresp, hcause, -⟩ | ⟨_, _, _, -, -, -, -, hv⟩⟩ := txline_next_cases h
    · exact ⟨s1, c, h1, h2, hresp, hcause⟩
    · cases hv
  · obtain ⟨h1, hresp, -⟩ | ⟨_, _, _, _, -, -, -, -, hv⟩ := rxline_next_cases h
    · exact ⟨h1, hresp⟩
    · cases hv
  · obtain ⟨s1, h1, ⟨_, -, -, -, hv⟩ | ⟨s2, f, t, h2, hr2, h3, hr3, hv⟩⟩ := txline_next_cases h
    · cases hv
    · exact ⟨s1, s2, f, t, h1, h2, hr2, h3, hr3, Option.some.inj hv⟩
  · obtain ⟨-, -, hv⟩ | ⟨s1, f, d', e', h1, hr1, h2, hr2, hv⟩ := rxline_next_cases h
    · cases hv
    · cases hv
      exact ⟨s1, f, h1, hr1, h2, hr2⟩

/-- Settles O57: under one configuration PARSE gives the sent frame back, and HDEC the data of its fcs, which the
channel changed in at most one bit. -/
theorem oneChannelErrorPerFrameIsCorrectedEndToEnd : Obligations.OneChannelErrorPerFrameIsCorrectedEndToEnd := by
  intro chan payload f draw c text s1 s2 s3 t1 t2 t3 h12 h13 hbuild hbuilt hcorrupt hcorrupted hdiff hrender hrendered
    s hs hfit
  obtain ⟨hc, hp, -, d, -, hf⟩ := exec_build_delivers hbuild hbuilt
  have hcode : f.fcs = henc (padTo s1.cfg.l payload) := by
    rw [hf]
    rfl
  rw [hcode] at hcorrupt hdiff
  have hparse := (parseInvertsRender _ text s _ (exec_next_congr (h13.trans hs.symm) hrender) hrendered).2 hfit
  obtain ⟨errpos, hhdec⟩ := atMostOneChannelErrorIsUndone _ draw c (s.respond (.ok (.parse { f with fcs := c }))) _
    (padTo_ne_nil hc hp) (exec_next_congr (h12.trans hs.symm) hcorrupt) hcorrupted hdiff
  refine ⟨s.respond (.ok (.hdec (padTo s1.cfg.l payload) errpos)), errpos, ?_, rfl, rfl⟩
  rw [hs]
  exact rxline_of_delivered hparse rfl hhdec rfl

end Sys2Proof.Machine
end

section
/-!
PROOFS. The byte counters of the host (45_session_host.md R156, R162, R163). O58, O59.
-/

namespace Sys2Proof.Machine

section Counters

variable (c : Counters) (p q : Pair) (n : Nat)

@[simp] theorem Counters.tx_apply_reset : (c.apply .reset).tx p = 0 := by cases p <;> rfl

@[simp] theorem Counters.rx_apply_reset : (c.apply .reset).rx p = 0 := by cases p <;> rfl

@[simp] theorem Counters.tx_apply_wrote : (c.apply (.wrote q n)).tx p = c.tx p + if q = p then n else 0 := by
  cases q <;> cases p <;> rfl

@[simp] theorem Counters.rx_apply_wrote : (c.apply (.wrote q n)).rx p = c.rx p := by
  cases q <;> cases p <;> rfl

@[simp] theorem Counters.tx_apply_read : (c.apply (.read q n)).tx p = c.tx p := by
  cases q <;> cases p <;> rfl

@[simp] theorem Counters.rx_apply_read : (c.apply (.read q n)).rx p = c.rx p + if q = p then n else 0 := by
  cases q <;> cases p <;> rfl

end Counters

theorem sinceReset_append_reset (es : List CounterEvent) : sinceReset (es ++ [.reset]) = [] := by
  simp [sinceReset]

theorem sinceReset_append_of_ne {e : CounterEvent} (h : e ≠ .reset) (es : List CounterEvent) :
    sinceReset (es ++ [e]) = e :: sinceReset es := by
  simp [sinceReset, h]

/-- Settles O58, by induction on the events, the latest last. -/
theorem byteCountersAreExactSums : Obligations.ByteCountersAreExactSums := by
  intro es c p
  induction es using List.reverseRecOn with
  | nil => simp [sinceReset, bytesWritten, bytesRead]
  | append_singleton es e ih =>
    obtain ⟨htx, hrx⟩ := ih
    rw [List.foldl_concat]
    cases e with
    | reset => simp [sinceReset_append_reset, bytesWritten, bytesRead]
    | wrote q n =>
      rw [sinceReset_append_of_ne (by simp), Counters.tx_apply_wrote, Counters.rx_apply_wrote, htx, hrx]
      simp [bytesWritten, bytesRead]
      omega
    | read q n =>
      rw [sinceReset_append_of_ne (by simp), Counters.tx_apply_read, Counters.rx_apply_read, htx, hrx]
      simp [bytesWritten, bytesRead]
      omega

/-- A transmit resets the counters, and counts what was written if it came to writing. -/
theorem transmitLine_next_cases {p : Pair} {chan text : SymString} {written : SymString → Option Nat}
    {ss ss' : Session} {out : Option Nat} (h : transmitLine p chan text written ss = .next (ss', out)) :
    (out = none ∧ ss'.counters = ss.counters.apply .reset) ∨
      ∃ n, out = some n ∧ ss'.counters = (ss.counters.apply .reset).apply (.wrote p n) := by
  unfold transmitLine at h
  split at h
  case h_1 => cases h; exact .inl ⟨rfl, rfl⟩
  case h_2 =>
    split at h
    case h_1 => cases h; exact .inl ⟨rfl, rfl⟩
    case h_2 n _ => cases h; exact .inr ⟨n, rfl, rfl⟩
  case h_3 => cases h
  case h_4 => cases h

/-- Settles O59. -/
theorem transmitResetsAllCounters : Obligations.TransmitResetsAllCounters := by
  intro p chan text written ss ss' out h
  obtain ⟨rfl, hcounters⟩ | ⟨n, rfl, hcounters⟩ := transmitLine_next_cases h
  · simp [hcounters]
  · simp [hcounters, eq_comm]

end Sys2Proof.Machine
end
